-- ==== Sys2Proof/Word.lean ====
section
/-! DEFINITION. The bit-pattern widths of NSCORE: the command word of R90, the response data of R91, and the entry
widths of the register space and the files (R30, R70). A stored entry is a bit pattern (R9); its integer value is
taken with `BitVec.toNat` for registers and `n`, and with `BitVec.toInt` for `TBL`, `B`, `A`, `X` and `Y`. -/

namespace Sys2Proof

/-- A command word `CW`, 64 bits (R90). -/
abbrev CmdWord := BitVec 64
/-- Response data `RDATA`, 64 bits (R91). -/
abbrev RespData := BitVec 64
/-- A register, and `CW.IMM`, 32 bits (R34, R73). -/
abbrev RegWord := BitVec 32
/-- `CW.IDX`: a register address or a whole-entry file index, 12 bits (R70, R95). -/
abbrev Index := BitVec 12
/-- `CW.SMP`, and an entry of `X`: a 16-bit sample (R7 `SW`, R47). -/
abbrev SampleWord := BitVec 16
/-- An entry of `TBL`, `B` or `A`: 32 bits, Q8.24 (R7 `QW`, R45, R46). -/
abbrev QWord := BitVec 32
/-- An entry of `Y`: 48 bits, Q24.24 (R7 `YW`, R48). -/
abbrev YWord := BitVec 48
/-- A response, command-error or fault code: 4 bits (R38, R91). -/
abbrev Code := BitVec 4

end Sys2Proof
end

