-- ==== Sys2Proof/Config.lean ====
section
/-! DEFINITION. The implementation parameters of R7, at the values NSCORE revision 1 fixes, and the two constant
registers (R35, R36). The spec leaves no computed value open (93_implementation_defined.md), so there is no free
value here; the latencies of R310 are left out with all timing (log 9). -/

namespace Sys2Proof.Config

/-- `SMIN`, the least representable sample (R7). -/
def sMin : Int := -32768
/-- `SMAX`, the greatest representable sample (R7). -/
def sMax : Int := 32767
/-- `SCALE`, the synthesizer's full-scale multiplier (R7, R177). -/
def scale : Int := 32767
/-- One in a raw value with `QF` = 24 fractional bits: `2^24` (R7, R9). -/
def one : Int := 16777216
/-- `YMIN`, the least raw output-history entry: `-2^47` (R7). -/
def yMin : Int := -140737488355328
/-- `YMAX`, the greatest raw output-history entry: `2^47 - 1` (R7). -/
def yMax : Int := 140737488355327
/-- `ACCW`, the least accumulator width at which R222's sum cannot overflow (R7). The model's sum is exact (R245). -/
def accW : Nat := 87
/-- `T_MAX`, the wave-table capacity (R7). -/
def tMax : Nat := 4096
/-- `N_MAX`, the capacity of each coefficient and history file (R7). -/
def nMax : Nat := 64
/-- `FS_SET`, the legal sampling rates in Hz (R7). -/
def fsSet : List Nat := [8000, 16000, 24000, 32000, 44100, 48000, 96000]
/-- `ID_VALUE`, the constant of register ID (R7, R35). -/
def idValue : RegWord := 0x4E530001#32
/-- The constant of register PARAMS: `N_MAX` in bits 23:16 and `T_MAX` in bits 15:0 (R36). -/
def paramsValue : RegWord := 0x00401000#32

end Sys2Proof.Config
end

