-- ==== Sys2Proof/Syntax.lean ====
section
/-! DEFINITION. The command set of R93 as one inductive with one constructor per row of spec/opcode_table.json, the
register names of R34, the values of CTRL's fields (R37), and the abstract syntax of the assembler of R98 and R99. -/

namespace Sys2Proof

/-- A command (R93). `idx` is `CW.IDX`, `imm` is `CW.IMM`, `smp` is `CW.SMP` (R95). The operands are the bit patterns
of the word's fields, so a term of this type cannot hold an operand outside its field. -/
inductive Instr where
  /-- R120. -/
  | nop
  /-- R121. -/
  | rdreg (idx : Index)
  /-- R122 to R126. -/
  | wrreg (idx : Index) (imm : RegWord)
  /-- R150. -/
  | rdtbl (idx : Index)
  /-- R151. -/
  | wrtbl (idx : Index) (imm : RegWord)
  /-- R200. -/
  | rdcb (idx : Index)
  /-- R201. -/
  | wrcb (idx : Index) (imm : RegWord)
  /-- R202. -/
  | rdca (idx : Index)
  /-- R203. -/
  | wrca (idx : Index) (imm : RegWord)
  /-- R204. -/
  | rdhx (idx : Index)
  /-- R205. -/
  | rdhy (idx : Index)
  /-- R131 to R135. -/
  | start
  /-- R178. -/
  | syn
  /-- R223. -/
  | flt (smp : SampleWord)
  deriving DecidableEq, Repr

/-- The four formats of R92. -/
inductive Format where
  | z | a | w | s
  deriving DecidableEq, Repr

/-- The four fields of a command word (R90). -/
structure Fields where
  imm : RegWord
  op  : BitVec 4
  idx : Index
  smp : SampleWord
  deriving DecidableEq, Repr

/-- The implemented registers, in address order (R34). -/
inductive RegName where
  | id | params | ctrl | status | cfgFs | cfgF | cfgT | cfgN | paNLo | paNHi | paIdx
  deriving DecidableEq, Repr

/-- CTRL.MODE: which tick command is legal (R37). -/
inductive Mode where
  | synth | filter
  deriving DecidableEq, Repr

/-- CTRL.OVF: the out-of-range policy of the conversion unit (R37, R242). -/
inductive Ovf where
  | sat | wrap
  deriving DecidableEq, Repr

/-- CTRL.SHAPE: the shaping transform (R37, R176). Values 2 and 3 are never stored, so they have no name. -/
inductive Shape where
  | negabs | ident
  deriving DecidableEq, Repr

/-- The assembler's operand `reg`: an address or a register name (R98). -/
inductive AsmReg where
  | addr (a : Nat)
  | name (r : RegName)
  deriving DecidableEq, Repr

/-- The assembler's operand `imm`: an integer, or `q(v)` for the decimal real `v = num / 10^decimals` (R98). -/
inductive AsmImm where
  | int (v : Int)
  | q (num : Int) (decimals : Nat)
  deriving DecidableEq, Repr

/-- The assembler's operand `smp`: a decimal integer or a hexadecimal 16-bit pattern (R98). -/
inductive AsmSmp where
  | dec (v : Int)
  | hex (p : Nat)
  deriving DecidableEq, Repr

/-- One line of the assembler: a command (R98) or a pseudo-instruction (R99). -/
inductive Asm where
  | nop
  | rdreg (r : AsmReg)
  | wrreg (r : AsmReg) (v : AsmImm)
  | rdtbl (i : Nat)
  | wrtbl (i : Nat) (v : AsmImm)
  | rdcb (i : Nat)
  | wrcb (i : Nat) (v : AsmImm)
  | rdca (i : Nat)
  | wrca (i : Nat) (v : AsmImm)
  | rdhx (i : Nat)
  | rdhy (i : Nat)
  | start
  | syn
  | flt (v : AsmSmp)
  | clrst
  | rdst
  | setctrl (mode : Mode) (ovf : Ovf) (shape : Shape)
  | cfgsyn (fs f t : AsmImm)
  | cfgflt (fs nn : AsmImm)
  deriving DecidableEq, Repr

end Sys2Proof
end

