-- ==== Sys2Proof/WellFormed.lean ====
section
/-! DEFINITION. The operand ranges of the assembler (R98: "An operand outside its range is an assembly error. It is
never truncated."). A term of `Instr` needs no check: its operands are the bit patterns of the word's fields (R90,
R95), and an index beyond a file is a legal command that ends in BAD_INDEX (R263), not an ill-formed one. -/

namespace Sys2Proof

/-- `idx` is an integer 0..4095 (R98). -/
def idxWellFormed (i : Nat) : Bool := i < 4096

/-- `reg` is an address 0..0xFFF or a register name (R98). -/
def AsmReg.wellFormed : AsmReg → Bool
  | .addr a => a < 4096
  | .name _ => true

/-- The integer range of `imm`: `[-2^31, 2^32-1]` (R98). -/
def immInRange (v : Int) : Bool := -2147483648 ≤ v && v ≤ 4294967295

/-- The range of a raw Q8.24 value: `[-2^31, 2^31-1]` (R98). -/
def qInRange (v : Int) : Bool := -2147483648 ≤ v && v ≤ 2147483647

/-- `imm` is in range; a `q(v)` is exact, `v*2^24` being an integer, and in range (R98). -/
def AsmImm.wellFormed : AsmImm → Bool
  | .int v => immInRange v
  | .q num decimals =>
    (num * 16777216) % (10 ^ decimals : Nat) == 0 && qInRange (num * 16777216 / (10 ^ decimals : Nat))

/-- `smp` is a decimal integer in `[-32768, 32767]` or a 16-bit pattern (R98). -/
def AsmSmp.wellFormed : AsmSmp → Bool
  | .dec v => -32768 ≤ v && v ≤ 32767
  | .hex p => p < 65536

/-- Every operand of the line is in its range (R98, R99). -/
def Asm.wellFormed : Asm → Bool
  | .nop | .start | .syn | .clrst | .rdst | .setctrl _ _ _ => true
  | .rdreg r => r.wellFormed
  | .wrreg r v => r.wellFormed && v.wellFormed
  | .rdtbl i | .rdcb i | .rdca i | .rdhx i | .rdhy i => idxWellFormed i
  | .wrtbl i v | .wrcb i v | .wrca i v => idxWellFormed i && v.wellFormed
  | .flt v => v.wellFormed
  | .cfgsyn fs f t => fs.wellFormed && f.wellFormed && t.wellFormed
  | .cfgflt fs nn => fs.wellFormed && nn.wellFormed

end Sys2Proof
end

