-- ==== Sys2Proof/Decode.lean ====
section
/-! DEFINITION. The command encoding of 30_encoding.md: the fields of a word (R90), the formats' masks (R92), the
opcode map (R93), the total decoder (R94), the encoder, and the assembler that expands R98's lines and R99's
pseudo-instructions to words. -/

namespace Sys2Proof

/-- `CW.IMM` = bits 63:32 (R90). -/
def immField (cw : CmdWord) : RegWord := cw.extractLsb' 32 32
/-- `CW.OP` = bits 31:28 (R90). -/
def opField (cw : CmdWord) : BitVec 4 := cw.extractLsb' 28 4
/-- `CW.IDX` = bits 27:16 (R90). -/
def idxField (cw : CmdWord) : Index := cw.extractLsb' 16 12
/-- `CW.SMP` = bits 15:0 (R90). -/
def smpField (cw : CmdWord) : SampleWord := cw.extractLsb' 0 16

/-- The four fields of a word (R90). -/
def fieldsOf (cw : CmdWord) : Fields := ⟨immField cw, opField cw, idxField cw, smpField cw⟩

/-- The word with these four fields: `{IMM, OP, IDX, SMP}` (R90). -/
def wordOf (f : Fields) : CmdWord := f.imm ++ f.op ++ f.idx ++ f.smp

/-- The mask of a format (R92). -/
def Format.mask : Format → CmdWord
  | .z => 0xFFFFFFFFFFFFFFFF#64
  | .a => 0xFFFFFFFFF000FFFF#64
  | .w => 0x00000000F000FFFF#64
  | .s => 0xFFFFFFFFFFFF0000#64

/-- The reserved fields of a format: its mask without the opcode field (R94). -/
def Format.reservedMask (f : Format) : CmdWord := f.mask &&& ~~~0x00000000F0000000#64

/-- `format_of(op)`: the opcode map's format column (R93); none for the reserved opcodes 0xE and 0xF (R96). -/
def formatOf (op : BitVec 4) : Option Format :=
  match op.toNat with
  | 0 => some .z
  | 1 => some .a
  | 2 => some .w
  | 3 => some .a
  | 4 => some .w
  | 5 => some .a
  | 6 => some .w
  | 7 => some .a
  | 8 => some .w
  | 9 => some .a
  | 10 => some .a
  | 11 => some .z
  | 12 => some .z
  | 13 => some .s
  | _ => none

/-- `mnemonic_of(op)` with its operands (R93, R94); none for the reserved opcodes (R96). -/
def instrOf (f : Fields) : Option Instr :=
  match f.op.toNat with
  | 0 => some .nop
  | 1 => some (.rdreg f.idx)
  | 2 => some (.wrreg f.idx f.imm)
  | 3 => some (.rdtbl f.idx)
  | 4 => some (.wrtbl f.idx f.imm)
  | 5 => some (.rdcb f.idx)
  | 6 => some (.wrcb f.idx f.imm)
  | 7 => some (.rdca f.idx)
  | 8 => some (.wrca f.idx f.imm)
  | 9 => some (.rdhx f.idx)
  | 10 => some (.rdhy f.idx)
  | 11 => some .start
  | 12 => some .syn
  | 13 => some (.flt f.smp)
  | _ => none

/-- Why a word is ILLEGAL (R94, R96). -/
inductive DecodeError where
  /-- The opcode is 0xE or 0xF. -/
  | reservedOpcode
  /-- A field the format does not use is not zero. -/
  | reservedField
  deriving DecidableEq, Repr

/-- Decoding, total on every word, in R94's order: the reserved opcodes first, then the format's reserved fields. -/
def decode (cw : CmdWord) : Except DecodeError Instr :=
  match formatOf (opField cw), instrOf (fieldsOf cw) with
  | some fmt, some i => if cw &&& fmt.reservedMask = 0 then .ok i else .error .reservedField
  | _, _ => .error .reservedOpcode

/-- The fields of a command, its unused fields zero (R92, R93). -/
def Instr.fields : Instr → Fields
  | .nop => ⟨0, 0x0, 0, 0⟩
  | .rdreg idx => ⟨0, 0x1, idx, 0⟩
  | .wrreg idx imm => ⟨imm, 0x2, idx, 0⟩
  | .rdtbl idx => ⟨0, 0x3, idx, 0⟩
  | .wrtbl idx imm => ⟨imm, 0x4, idx, 0⟩
  | .rdcb idx => ⟨0, 0x5, idx, 0⟩
  | .wrcb idx imm => ⟨imm, 0x6, idx, 0⟩
  | .rdca idx => ⟨0, 0x7, idx, 0⟩
  | .wrca idx imm => ⟨imm, 0x8, idx, 0⟩
  | .rdhx idx => ⟨0, 0x9, idx, 0⟩
  | .rdhy idx => ⟨0, 0xA, idx, 0⟩
  | .start => ⟨0, 0xB, 0, 0⟩
  | .syn => ⟨0, 0xC, 0, 0⟩
  | .flt smp => ⟨0, 0xD, 0, smp⟩

/-- The word of a command (R90, R93). -/
def encode (i : Instr) : CmdWord := wordOf i.fields

/-- The address of a register (R34). -/
def RegName.addr : RegName → Nat
  | .id => 0x000
  | .params => 0x001
  | .ctrl => 0x002
  | .status => 0x003
  | .cfgFs => 0x004
  | .cfgF => 0x005
  | .cfgT => 0x006
  | .cfgN => 0x007
  | .paNLo => 0x008
  | .paNHi => 0x009
  | .paIdx => 0x00A

/-- The value of a `reg` operand (R98). -/
def AsmReg.value : AsmReg → Index
  | .addr a => BitVec.ofNat 12 a
  | .name r => BitVec.ofNat 12 r.addr

/-- The pattern of an `imm` operand: `bits_32(imm)`, or `bits_32(v*2^24)` for `q(v)` (R98). -/
def AsmImm.value : AsmImm → RegWord
  | .int v => BitVec.ofInt 32 v
  | .q num decimals => BitVec.ofInt 32 (num * 16777216 / (10 ^ decimals : Nat))

/-- The pattern of a `smp` operand: `bits_16(smp)` (R98). -/
def AsmSmp.value : AsmSmp → SampleWord
  | .dec v => BitVec.ofInt 16 v
  | .hex p => BitVec.ofNat 16 p

/-- SETCTRL's operand `mode`: SYNTH=0 or FILTER=1 (R99). -/
def modeImm : Mode → RegWord
  | .synth => 0
  | .filter => 1

/-- SETCTRL's operand `ovf`: SAT=0 or WRAP=1 (R99). -/
def ovfImm : Ovf → RegWord
  | .sat => 0
  | .wrap => 1

/-- SETCTRL's operand `shape`: NEGABS=0 or IDENT=1 (R99). -/
def shapeImm : Shape → RegWord
  | .negabs => 0
  | .ident => 1

/-- SETCTRL's immediate: `(shape << 2) | (ovf << 1) | mode` (R99). -/
def ctrlImm (mode : Mode) (ovf : Ovf) (shape : Shape) : RegWord :=
  (shapeImm shape <<< 2) ||| (ovfImm ovf <<< 1) ||| modeImm mode

/-- The commands a line stands for: itself (R98) or its expansion (R99), its operands being in range. -/
def Asm.commands : Asm → List Instr
  | .nop => [.nop]
  | .rdreg r => [.rdreg r.value]
  | .wrreg r v => [.wrreg r.value v.value]
  | .rdtbl i => [.rdtbl (BitVec.ofNat 12 i)]
  | .wrtbl i v => [.wrtbl (BitVec.ofNat 12 i) v.value]
  | .rdcb i => [.rdcb (BitVec.ofNat 12 i)]
  | .wrcb i v => [.wrcb (BitVec.ofNat 12 i) v.value]
  | .rdca i => [.rdca (BitVec.ofNat 12 i)]
  | .wrca i v => [.wrca (BitVec.ofNat 12 i) v.value]
  | .rdhx i => [.rdhx (BitVec.ofNat 12 i)]
  | .rdhy i => [.rdhy (BitVec.ofNat 12 i)]
  | .start => [.start]
  | .syn => [.syn]
  | .flt v => [.flt v.value]
  | .clrst => [.wrreg (BitVec.ofNat 12 RegName.status.addr) 0x1C#32]
  | .rdst => [.rdreg (BitVec.ofNat 12 RegName.status.addr)]
  | .setctrl mode ovf shape => [.wrreg (BitVec.ofNat 12 RegName.ctrl.addr) (ctrlImm mode ovf shape)]
  | .cfgsyn fs f t =>
    [.wrreg (BitVec.ofNat 12 RegName.cfgFs.addr) fs.value, .wrreg (BitVec.ofNat 12 RegName.cfgF.addr) f.value,
      .wrreg (BitVec.ofNat 12 RegName.cfgT.addr) t.value]
  | .cfgflt fs nn =>
    [.wrreg (BitVec.ofNat 12 RegName.cfgFs.addr) fs.value, .wrreg (BitVec.ofNat 12 RegName.cfgN.addr) nn.value]

/-- Assembling a line: its words, or none where an operand is outside its range (R98). -/
def assemble (l : Asm) : Option (List CmdWord) :=
  if l.wellFormed then some (l.commands.map encode) else none

/-- The instruction the decoder reads from a table row's word of `nbits` bits, the bits above being zero. A command
has a single length of 64 bits and no bytes (R90, R71), so the table's bit numbers are the command word's. -/
def decodeTableWord (nbits w : Nat) : Option Instr :=
  match decode (BitVec.ofNat 64 (w % 2 ^ nbits)) with
  | .ok i => some i
  | .error _ => none

end Sys2Proof
end

