-- ==== Sys2Proof/Machine/State.lean ====
section
/-! DEFINITION. The machine's state: the tuple of R30, and two fields of the model's own for the command and response
channels (R3, R91; log 1 and log 2), with the reset state of R300 and the reasons a step can stop. -/

namespace Sys2Proof.Machine

/-- `ST`: CONFIG (0), RUN (1), FAULT (2); value 3 is never taken (R33). -/
inductive OpState where
  | config | run | fault
  deriving DecidableEq, Repr

/-- CTRL's implemented fields (R37). Every legal value is one term and no illegal value is (log 8). -/
structure Ctrl where
  mode  : Mode
  ovf   : Ovf
  shape : Shape
  deriving DecidableEq, Repr

/-- The response codes the spec produces (R261). -/
inductive RCode where
  | ok | illegal | badIndex | readOnly | badState | mode | badValue | configFault
  deriving DecidableEq, Repr

/-- A response: `RCODE`, 4 bits, and `RDATA`, 64 bits (R91). -/
structure Response where
  rcode : Code
  rdata : RespData
  deriving DecidableEq, Repr

/-- What the host does to the block next (R3, R300, R303). -/
inductive HostEvent where
  /-- The host sends a command word (R306). -/
  | command (cw : CmdWord)
  /-- The host asserts reset between commands (R300). -/
  | reset
  /-- The host asserts reset while this command is in progress (R303). -/
  | resetDuring (cw : CmdWord)
  deriving DecidableEq, Repr

/-- `TBL`: (index, entry) pairs, in the canonical form `Memory.wf` of Machine/Ops.lean; an index that is not listed
reads as R300's reset value (log 6). -/
abbrev Memory := List (Nat × QWord)

/-- A file of `N_MAX` = 64 entries (R46 to R48). -/
abbrev Bank (w : Nat) := Vector (BitVec w) 64

/-- R30's tuple, one field each, and the two channels. -/
structure State where
  /-- R33. -/
  st : OpState
  /-- R37. -/
  ctrl : Ctrl
  /-- STATUS.CLIP (R38). -/
  clip : Bool
  /-- STATUS.YSAT (R38). -/
  ysat : Bool
  /-- STATUS.CERR (R38). -/
  cerr : Bool
  /-- STATUS.CCODE (R38). -/
  ccode : Code
  /-- STATUS.FCODE (R38). -/
  fcode : Code
  /-- CFG_FS (R39). -/
  cfgFs : RegWord
  /-- CFG_F (R40). -/
  cfgF : RegWord
  /-- CFG_T (R41). -/
  cfgT : RegWord
  /-- CFG_N (R42). -/
  cfgN : RegWord
  /-- `n` (R43). -/
  n : BitVec 64
  /-- PA_IDX (R44). -/
  paIdx : Index
  /-- `TBL` (R45). -/
  tbl : Memory
  /-- `B` (R46). -/
  b : Bank 32
  /-- `A` (R46). -/
  a : Bank 32
  /-- `X` (R47). -/
  x : Bank 16
  /-- `Y` (R48). -/
  y : Bank 48
  /-- The MODEL's own: what the host does from here on, oldest first (log 1). -/
  inputs : List HostEvent
  /-- The MODEL's own: the responses delivered since the last reset, oldest first (R311, log 2). -/
  responses : List Response
  deriving DecidableEq, Repr

/-- Why the machine stops. The spec's own errors are next states (R262); these two are raised only in states that no
run from reset reaches, where the pseudocode has no value (R245, R173; log 7). -/
inductive Fault where
  /-- Raised by SYN when CFG_FS or CFG_T is 0 in RUN: `fdiv` and `fmod` need a positive divisor (R10). Safe: the model
  stops; R245 says "no division by zero is reachable". -/
  | divisionByZero
  /-- Raised by SYN when its index is 4096 or more, and by FLT when CFG_N is above 64: no such entry exists (R70).
  Safe: the model stops; START refuses such a CFG_T or CFG_N (R132). -/
  | noSuchEntry
  deriving DecidableEq, Repr

/-- Why a step has no meaning. -/
inductive Refusal where
  /-- The instruction has no meaning yet. No arm of `exec` raises it: every row of the table has its meaning. Safe. -/
  | notModelled (mnemonic : String)
  deriving DecidableEq, Repr

/-- The machine right after reset (R300). Both channels are empty (DESIGN CHOICE, log 1 and log 2: they are the
model's, not the spec's). -/
def State.reset : State where
  st := .config
  ctrl := ⟨.synth, .sat, .negabs⟩
  clip := false
  ysat := false
  cerr := false
  ccode := 0
  fcode := 0
  cfgFs := 0
  cfgF := 0
  cfgT := 0
  cfgN := 0
  n := 0
  paIdx := 0
  tbl := []
  b := Vector.replicate 64 0
  a := Vector.replicate 64 0
  x := Vector.replicate 64 0
  y := Vector.replicate 64 0
  inputs := []
  responses := []

end Sys2Proof.Machine
end

