-- ==== Sys2Proof/Machine/FixedPoint.lean ====
section
/-! DEFINITION. The integer primitives of R10 and the fixed-point conversion and clamping unit of 44_fixed_point.md.
Every value is an integer of unbounded size unless it is narrowed here (R9, R245). -/

namespace Sys2Proof.Machine

/-- `sext_N(v)`, and `wrap_N(v)`: the two's-complement value of the low `N` bits of `v` (R10). -/
def sext (bits : Nat) (v : Int) : Int := (BitVec.ofInt bits v).toInt

/-- `bits_N(v)`: the `N`-bit two's-complement pattern of `v` (R10). -/
def bitsOf (bits : Nat) (v : Int) : BitVec bits := BitVec.ofInt bits v

/-- `fdiv(a, b)`: floor division, `b > 0` (R10). -/
def floorDiv (a b : Int) : Int := Int.fdiv a b

/-- `tdiv(a, b)`: division truncating toward zero, `b > 0` (R10). -/
def truncDiv (a b : Int) : Int := Int.tdiv a b

/-- `clamp(v, lo, hi)` (R10). -/
def clamp (v lo hi : Int) : Int := if v < lo then lo else if hi < v then hi else v

/-- R240: a raw value with 24 fractional bits is truncated toward zero to an integer. -/
def truncRaw (v : Int) : Int := truncDiv v Config.one

/-- R243: the integer lies outside the sample range, so CLIP is set. -/
def clips (t : Int) : Bool := t < Config.sMin || Config.sMax < t

/-- R241, R242: the policy of CTRL.OVF on the truncated integer. -/
def narrowSample (ovf : Ovf) (t : Int) : Int :=
  match ovf with
  | .sat => clamp t Config.sMin Config.sMax
  | .wrap => sext 16 t

/-- The sample `convert(v)` returns under a policy (R241). -/
def convertSample (ovf : Ovf) (v : Int) : Int := narrowSample ovf (truncRaw v)

/-- Whether `convert(v)` sets CLIP (R241, R243). -/
def convertClips (v : Int) : Bool := clips (truncRaw v)

/-- The value `ystore(yq)` returns: it always saturates (R244). -/
def yStore (yq : Int) : Int := clamp yq Config.yMin Config.yMax

/-- Whether `ystore(yq)` sets YSAT (R244). -/
def yStoreSaturates (yq : Int) : Bool := yq < Config.yMin || Config.yMax < yq

/-- `sum_{i=0}^{k-1} f i`, exact (R222, R245). -/
def sumBelow : Nat → (Nat → Int) → Int
  | 0, _ => 0
  | k + 1, f => sumBelow k f + f k

end Sys2Proof.Machine
end

