-- ==== Sys2Proof/Machine/Operands.lean ====
section
/-! DEFINITION. Operand assembly (R95), the register address map (R34), and the widening of read data into the
64-bit response (R72). -/

namespace Sys2Proof.Machine

/-- The implemented register at an address, none for 0x00B..0xFFF (R34). -/
def registerAt (a : Index) : Option RegName :=
  match a.toNat with
  | 0x000 => some .id
  | 0x001 => some .params
  | 0x002 => some .ctrl
  | 0x003 => some .status
  | 0x004 => some .cfgFs
  | 0x005 => some .cfgF
  | 0x006 => some .cfgT
  | 0x007 => some .cfgN
  | 0x008 => some .paNLo
  | 0x009 => some .paNHi
  | 0x00A => some .paIdx
  | _ => none

/-- The entry index `CW.IDX` gives (R95). -/
def entryIndex (idx : Index) : Nat := idx.toNat

/-- R72: a register is zero-extended, `RDATA = zext_64(reg[a])`. -/
def widenRegister (v : RegWord) : RespData := v.setWidth 64

/-- R72: a file entry is sign-extended, `RDATA = bits_64(sext_w(entry))`. -/
def widenEntry {w : Nat} (e : BitVec w) : RespData := bitsOf 64 e.toInt

/-- R72: an output sample `s` gives `RDATA = bits_64(s)`. -/
def widenSample (s : Int) : RespData := bitsOf 64 s

/-- R273, R308(c): the sample the host passes to the codec, `sext_16(RDATA[15:0])`. -/
def Response.sample (r : Response) : Int := (r.rdata.extractLsb' 0 16).toInt

end Sys2Proof.Machine
end

