-- ==== Sys2Proof/Machine/Flags.lean ====
section
/-! DEFINITION. The codes of R261, the words CTRL and STATUS read as (R37, R38), and every change of a STATUS flag:
CLIP (R243), YSAT (R244), CERR with CCODE (R262), and the write-1-to-clear of R124. -/

namespace Sys2Proof.Machine

/-- The 4-bit code of a response (R261). -/
def RCode.bits : RCode → Code
  | .ok => 0
  | .illegal => 1
  | .badIndex => 2
  | .readOnly => 3
  | .badState => 4
  | .mode => 5
  | .badValue => 6
  | .configFault => 7

/-- `ST` as STATUS.STATE reads it (R33, R38). -/
def OpState.bits : OpState → BitVec 2
  | .config => 0
  | .run => 1
  | .fault => 2

/-- CTRL.MODE's bit (R37). -/
def modeBit : Mode → BitVec 1
  | .synth => 0
  | .filter => 1

/-- CTRL.OVF's bit (R37). -/
def ovfBit : Ovf → BitVec 1
  | .sat => 0
  | .wrap => 1

/-- CTRL.SHAPE's two bits (R37). -/
def shapeBits : Shape → BitVec 2
  | .negabs => 0
  | .ident => 1

/-- CTRL as a read returns it: `{28'b0, SHAPE, OVF, MODE}` (R37). -/
def Ctrl.word (c : Ctrl) : RegWord := 0#28 ++ shapeBits c.shape ++ ovfBit c.ovf ++ modeBit c.mode

/-- The fields a write of `v` to CTRL stores; none where the value is illegal, which is a bit of 31:4 set or SHAPE 2
or 3 (R37, R123). -/
def ctrlOfWord (v : RegWord) : Option Ctrl :=
  if v.extractLsb' 4 28 ≠ 0 then none
  else match (v.extractLsb' 2 2).toNat with
    | 0 => some ⟨if v.getLsbD 0 then .filter else .synth, if v.getLsbD 1 then .wrap else .sat, .negabs⟩
    | 1 => some ⟨if v.getLsbD 0 then .filter else .synth, if v.getLsbD 1 then .wrap else .sat, .ident⟩
    | _ => none

/-- STATUS as a read returns it: `{16'b0, FCODE, CCODE, 3'b0, CERR, YSAT, CLIP, ST}` (R38, R121). -/
def statusWord (s : State) : RegWord :=
  0#16 ++ s.fcode ++ s.ccode ++ 0#3 ++ BitVec.ofBool s.cerr ++ BitVec.ofBool s.ysat ++ BitVec.ofBool s.clip ++ s.st.bits

/-- CLIP is set where a conversion was out of range, else unchanged (R243). -/
def noteClip (out : Bool) (s : State) : State := { s with clip := s.clip || out }

/-- YSAT is set where an output-history store saturated, else unchanged (R244). -/
def noteYsat (out : Bool) (s : State) : State := { s with ysat := s.ysat || out }

/-- A command error is recorded: CERR <- 1 and CCODE <- c (R262). -/
def recordError (c : RCode) (s : State) : State := { s with cerr := true, ccode := c.bits }

/-- A write of `v` to STATUS: a 1 in bit 2, 3 or 4 clears CLIP, YSAT or CERR, the last with CCODE; every other bit is
ignored (R38, R124). -/
def clearStatus (v : RegWord) (s : State) : State :=
  { s with
    clip := s.clip && !v.getLsbD 2
    ysat := s.ysat && !v.getLsbD 3
    cerr := s.cerr && !v.getLsbD 4
    ccode := if v.getLsbD 4 then 0 else s.ccode }

end Sys2Proof.Machine
end

