-- ==== Sys2Proof/Machine/Ops.lean ====
section
/-! DEFINITION. The shared operations: reading and writing TBL and the 64-entry files (R70), the history shift
(R210, R211), ending a command with a response (R10) or on the error path (R262, the block's whole exception entry:
R265 gives it no trap and R267 no return), and accepting a host event (R300, R303, R306). -/

namespace Sys2Proof.Machine

/-- What an entry of TBL that is not listed reads as: the reset value (R45, R300). -/
def Memory.blank : QWord := 0

/-- The canonical form of TBL: indices strictly rising and below `T_MAX`, and no entry equal to what an unlisted index
reads as (log 6). -/
abbrev Memory.wf (m : Memory) : Prop :=
  m.Pairwise (fun c d => c.1 < d.1) ∧ ∀ c ∈ m, c.1 < Config.tMax ∧ c.2 ≠ Memory.blank

/-- `TBL[i]` (R70). -/
def Memory.read : Memory → Nat → QWord
  | [], _ => Memory.blank
  | c :: m, i => if c.1 = i then c.2 else Memory.read m i

/-- A listed entry put before the first greater index. -/
def Memory.insertCell (i : Nat) (v : QWord) : Memory → Memory
  | [] => [(i, v)]
  | c :: m => if i < c.1 then (i, v) :: c :: m else c :: Memory.insertCell i v m

/-- `TBL[i] <- v` (R70): the old entry goes, and the new one is listed unless it is the blank value. -/
def Memory.write (m : Memory) (i : Nat) (v : QWord) : Memory :=
  let rest := m.filter (fun c => c.1 != i)
  if v = Memory.blank then rest else Memory.insertCell i v rest

/-- Entry `i` of a 64-entry file. Callers check `i < 64` first (R261). -/
def Bank.read {w : Nat} (f : Bank w) (i : Nat) : BitVec w := f[i]?.getD 0

/-- `f[i] <- v` in a 64-entry file. Callers check `i < 64` first (R261). -/
def Bank.write {w : Nat} (f : Bank w) (i : Nat) (v : BitVec w) : Bank w := f.setIfInBounds i v

/-- `for i from k down to 1: buf[i] <- buf[i-1]` (R210, R211). -/
def shiftDown {w : Nat} : Nat → Bank w → Bank w
  | 0, f => f
  | k + 1, f => shiftDown k (Bank.write f (k + 1) (Bank.read f k))

/-- `push_input` and `push_output` on a history of length `len`: shift by one, the new value at index 0 (R210, R211). -/
def pushHistory {w : Nat} (len : Nat) (v : BitVec w) (f : Bank w) : Bank w :=
  Bank.write (shiftDown (len - 1) f) 0 v

/-- The response is delivered to the host (R91). -/
def addResponse (c : RCode) (d : RespData) (s : State) : State :=
  { s with responses := s.responses ++ [⟨c.bits, d⟩] }

/-- `respond(code, data)`: the command ends (R10). -/
def respond (c : RCode) (d : RespData) (s : State) : Host.Outcome State Fault Refusal := .next (addResponse c d s)

/-- `raise Err(c)`: CERR and CCODE record the code, nothing else changes, and the response is `(c, 0)` (R10, R262). -/
def raiseErr (c : RCode) (s : State) : Host.Outcome State Fault Refusal := respond c 0 (recordError c s)

/-- `if ST != CONFIG: raise Err(BAD_STATE)`, else the rest of the command (R52, R263). -/
def inConfig (s : State) (body : Host.Outcome State Fault Refusal) : Host.Outcome State Fault Refusal :=
  if s.st = .config then body else raiseErr .badState s

/-- `if i >= 64: raise Err(BAD_INDEX)`, else the rest of the command (R70, R261). -/
def withEntry (i : Nat) (s : State) (body : Host.Outcome State Fault Refusal) : Host.Outcome State Fault Refusal :=
  if i < Config.nMax then body else raiseErr .badIndex s

/-- `if ST != RUN: raise Err(BAD_STATE)`, `if CTRL.MODE != m: raise Err(MODE)`, else the rest of the tick (R263). -/
def inRun (m : Mode) (s : State) (body : Host.Outcome State Fault Refusal) : Host.Outcome State Fault Refusal :=
  if s.st = .run then (if s.ctrl.mode = m then body else raiseErr .mode s) else raiseErr .badState s

/-- The block takes the host's oldest event; the rest stays with the host (R306, log 1). -/
def acceptEvent (s : State) : State := { s with inputs := s.inputs.tail }

/-- Reset: every element of R300's table at its reset value. What the host will do next is not the block's, and stays;
the responses begin anew with the run that begins (R303, R311; log 2). -/
def applyReset (s : State) : State := { State.reset with inputs := s.inputs }

end Sys2Proof.Machine
end

