-- ==== Sys2Proof/Machine/Control.lean ====
section
/-! DEFINITION. The control commands of 40_control.md: NOP, RDREG, WRREG and START. -/

namespace Sys2Proof.Machine

/-- NOP (R120). -/
def execNop (s : State) : Host.Outcome State Fault Refusal := respond .ok 0 s

/-- The 32-bit value a read of the register returns (R34 to R44, R121). -/
def readRegister (r : RegName) (s : State) : RegWord :=
  match r with
  | .id => Config.idValue
  | .params => Config.paramsValue
  | .ctrl => s.ctrl.word
  | .status => statusWord s
  | .cfgFs => s.cfgFs
  | .cfgF => s.cfgF
  | .cfgT => s.cfgT
  | .cfgN => s.cfgN
  | .paNLo => s.n.extractLsb' 0 32
  | .paNHi => s.n.extractLsb' 32 32
  | .paIdx => s.paIdx.setWidth 32

/-- RDREG (R121). -/
def execRdreg (idx : Index) (s : State) : Host.Outcome State Fault Refusal :=
  match registerAt idx with
  | none => raiseErr .badIndex s
  | some r => respond .ok (widenRegister (readRegister r s)) s

/-- WRREG CTRL in CONFIG: a legal value is stored whole, any other fails with BAD_VALUE (R123). -/
def writeCtrl (v : RegWord) (s : State) : Host.Outcome State Fault Refusal :=
  match ctrlOfWord v with
  | none => raiseErr .badValue s
  | some c => respond .ok 0 { s with ctrl := c }

/-- WRREG (R122 to R126). -/
def execWrreg (idx : Index) (v : RegWord) (s : State) : Host.Outcome State Fault Refusal :=
  match registerAt idx with
  | none => raiseErr .badIndex s
  | some .id => raiseErr .readOnly s
  | some .params => raiseErr .readOnly s
  | some .paNLo => raiseErr .readOnly s
  | some .paNHi => raiseErr .readOnly s
  | some .paIdx => raiseErr .readOnly s
  | some .status => respond .ok 0 (clearStatus v s)
  | some .ctrl => inConfig s (writeCtrl v s)
  | some .cfgFs => inConfig s (respond .ok 0 { s with cfgFs := v })
  | some .cfgF => inConfig s (respond .ok 0 { s with cfgF := v })
  | some .cfgT => inConfig s (respond .ok 0 { s with cfgT := v })
  | some .cfgN => inConfig s (respond .ok 0 { s with cfgN := v })

/-- START's validation: the first failing fault code, 0 where all checks pass; `2 * CFG_F` is exact (R132, R261). -/
def validate (s : State) : Code :=
  if s.cfgFs.toNat ∉ Config.fsSet then 1
  else match s.ctrl.mode with
    | .synth =>
      if s.cfgT.toNat = 0 ∨ s.cfgT.toNat > Config.tMax then 2
      else if 2 * s.cfgF.toNat ≥ s.cfgFs.toNat then 3
      else 0
    | .filter => if s.cfgN.toNat = 0 ∨ s.cfgN.toNat > Config.nMax then 4 else 0

/-- START (R131, R133, R134). -/
def execStart (s : State) : Host.Outcome State Fault Refusal :=
  inConfig s
    (if validate s = 0 then respond .ok 0 { s with st := .run }
     else respond .configFault ((validate s).setWidth 64) { s with st := .fault, fcode := validate s })

end Sys2Proof.Machine
end

