-- ==== Sys2Proof/Machine/Filter.lean ====
section
/-! DEFINITION. Coefficients, sample history and the filter engine of 43_filter.md: RDCB, WRCB, RDCA, WRCA, RDHX,
RDHY and FLT. -/

namespace Sys2Proof.Machine

/-- RDCB (R200). -/
def execRdcb (idx : Index) (s : State) : Host.Outcome State Fault Refusal :=
  withEntry (entryIndex idx) s (respond .ok (widenEntry (Bank.read s.b (entryIndex idx))) s)

/-- WRCB (R201): the index is checked before the operating state. -/
def execWrcb (idx : Index) (v : RegWord) (s : State) : Host.Outcome State Fault Refusal :=
  withEntry (entryIndex idx) s (inConfig s (respond .ok 0 { s with b := Bank.write s.b (entryIndex idx) v }))

/-- RDCA (R202). -/
def execRdca (idx : Index) (s : State) : Host.Outcome State Fault Refusal :=
  withEntry (entryIndex idx) s (respond .ok (widenEntry (Bank.read s.a (entryIndex idx))) s)

/-- WRCA (R203). -/
def execWrca (idx : Index) (v : RegWord) (s : State) : Host.Outcome State Fault Refusal :=
  withEntry (entryIndex idx) s (inConfig s (respond .ok 0 { s with a := Bank.write s.a (entryIndex idx) v }))

/-- RDHX (R204). -/
def execRdhx (idx : Index) (s : State) : Host.Outcome State Fault Refusal :=
  withEntry (entryIndex idx) s (respond .ok (widenEntry (Bank.read s.x (entryIndex idx))) s)

/-- RDHY (R205). -/
def execRdhy (idx : Index) (s : State) : Host.Outcome State Fault Refusal :=
  withEntry (entryIndex idx) s (respond .ok (widenEntry (Bank.read s.y (entryIndex idx))) s)

/-- The difference equation's exact sum, in units of 2^-48, over the histories after both pushes (R222). `A[0]` and
`Y[0]` are not read. -/
def filterSum (len : Nat) (b a : Bank 32) (x : Bank 16) (y : Bank 48) : Int :=
  sumBelow len (fun i => (Bank.read b i).toInt * (Bank.read x i).toInt * Config.one) -
    sumBelow (len - 1) (fun i => (Bank.read a (i + 1)).toInt * (Bank.read y (i + 1)).toInt)

/-- The filter order `N` = CFG_N (R42). -/
def order (s : State) : Nat := s.cfgN.toNat

/-- Steps 1 and 2 of FLT: `push_input(x_new)` and `push_output(0)`, the placeholder (R220, R221). -/
def pushSample (smp : SampleWord) (s : State) : State :=
  { s with x := pushHistory (order s) smp s.x, y := pushHistory (order s) 0 s.y }

/-- `yq = fdiv(acc, 2^24)` of step 3, over the pushed histories (R222). -/
def filterQuotient (s : State) : Int := floorDiv (filterSum (order s) s.b s.a s.x s.y) Config.one

/-- The end of step 3: `y <- ystore(yq)` and `Y[0] <- bits_48(y)` (R222, R244). -/
def storeOutput (s : State) : State :=
  noteYsat (yStoreSaturates (filterQuotient s)) { s with y := Bank.write s.y 0 (bitsOf 48 (yStore (filterQuotient s))) }

/-- FLT (R223). The fault stands where a file has no such entry, in states START rules out (log 7). -/
def execFlt (smp : SampleWord) (s : State) : Host.Outcome State Fault Refusal :=
  inRun .filter s
    (if order s > Config.nMax then .fault .noSuchEntry
     else
       let pushed := pushSample smp s
       let out := yStore (filterQuotient pushed)
       respond .ok (widenSample (convertSample s.ctrl.ovf out)) (noteClip (convertClips out) (storeOutput pushed)))

end Sys2Proof.Machine
end

