-- ==== Sys2Proof/Machine/Synth.lean ====
section
/-! DEFINITION. The phase accumulator and the waveform synthesizer of 42_synth.md: SYN. -/

namespace Sys2Proof.Machine

/-- The index rule: `fmod(fdiv(n * f * T, fs), T)`, exact (R172). -/
def nextIndex (n f t fs : Nat) : Nat := n * f * t / fs % t

/-- The shaping transform on a signed Q8.24 raw integer (R176). -/
def shapeValue (sh : Shape) (r : Int) : Int :=
  match sh with
  | .negabs => if r < 0 then r else -r
  | .ident => r

/-- The index SYN uses in a state: `n` before its increment (R172). -/
def synIndex (s : State) : Nat := nextIndex s.n.toNat s.cfgF.toNat s.cfgT.toNat s.cfgFs.toNat

/-- The shaped and scaled value `p = shape(r) * 32767` of a table entry (R176, R177). -/
def synProduct (sh : Shape) (e : QWord) : Int := shapeValue sh e.toInt * Config.scale

/-- `n <- fmod(n + 1, 2^64)` and `PA_IDX <- idx` (R172, R178). -/
def advancePhase (idx : Nat) (s : State) : State := { s with n := s.n + 1, paIdx := BitVec.ofNat 12 idx }

/-- SYN (R178). The two faults stand where the pseudocode has no value, in states START rules out (log 7). -/
def execSyn (s : State) : Host.Outcome State Fault Refusal :=
  inRun .synth s
    (if s.cfgFs = 0 ∨ s.cfgT = 0 then .fault .divisionByZero
     else if synIndex s ≥ Config.tMax then .fault .noSuchEntry
     else
       let p := synProduct s.ctrl.shape (Memory.read s.tbl (synIndex s))
       respond .ok (widenSample (convertSample s.ctrl.ovf p)) (noteClip (convertClips p) (advancePhase (synIndex s) s)))

end Sys2Proof.Machine
end

