-- ==== Sys2Proof/Machine/WaveTable.lean ====
section
/-! DEFINITION. The wave-table commands of 41_wavetable.md: RDTBL and WRTBL. Every 12-bit index is an entry. -/

namespace Sys2Proof.Machine

/-- RDTBL (R150). -/
def execRdtbl (idx : Index) (s : State) : Host.Outcome State Fault Refusal :=
  respond .ok (widenEntry (Memory.read s.tbl (entryIndex idx))) s

/-- WRTBL (R151). -/
def execWrtbl (idx : Index) (v : RegWord) (s : State) : Host.Outcome State Fault Refusal :=
  inConfig s (respond .ok 0 { s with tbl := Memory.write s.tbl (entryIndex idx) v })

end Sys2Proof.Machine
end

