-- ==== Sys2Proof/Machine/Dispatch.lean ====
section
/-! DEFINITION. One arm per command, each a direct call of its meaning. -/

namespace Sys2Proof.Machine

/-- What a decoded command does (40_control.md to 43_filter.md). -/
def exec (i : Instr) (s : State) : Host.Outcome State Fault Refusal :=
  match i with
  | .nop => Sys2Proof.Machine.execNop s
  | .rdreg idx => Sys2Proof.Machine.execRdreg idx s
  | .wrreg idx imm => Sys2Proof.Machine.execWrreg idx imm s
  | .rdtbl idx => Sys2Proof.Machine.execRdtbl idx s
  | .wrtbl idx imm => Sys2Proof.Machine.execWrtbl idx imm s
  | .rdcb idx => Sys2Proof.Machine.execRdcb idx s
  | .wrcb idx imm => Sys2Proof.Machine.execWrcb idx imm s
  | .rdca idx => Sys2Proof.Machine.execRdca idx s
  | .wrca idx imm => Sys2Proof.Machine.execWrca idx imm s
  | .rdhx idx => Sys2Proof.Machine.execRdhx idx s
  | .rdhy idx => Sys2Proof.Machine.execRdhy idx s
  | .start => Sys2Proof.Machine.execStart s
  | .syn => Sys2Proof.Machine.execSyn s
  | .flt smp => Sys2Proof.Machine.execFlt smp s

end Sys2Proof.Machine
end

