-- ==== Sys2Proof/Machine/Channel.lean ====
section
/-! DEFINITION. What each kind of host event does: a command word is decoded and performed (R94, R306), a reset puts
the reset state (R300), a reset during a command abandons it (R303), and no event leaves the block idle (R276). -/

namespace Sys2Proof.Machine

/-- A word from the host: ILLEGAL takes the error path, a command takes its meaning (R94, R262). -/
def performWord (cw : CmdWord) (s : State) : Host.Outcome State Fault Refusal :=
  match decode cw with
  | .error _ => raiseErr .illegal s
  | .ok i => exec i s

/-- Reset between commands (R300). -/
def performReset (s : State) : Host.Outcome State Fault Refusal := .next (applyReset s)

/-- Reset while `cw` is in progress: no response, and the reset state, whatever the command had done (R303; log 4). -/
def performResetDuring (_cw : CmdWord) (s : State) : Host.Outcome State Fault Refusal := .next (applyReset s)

/-- No event: the block is idle and holds its state (R276; log 3). -/
def performIdle (s : State) : Host.Outcome State Fault Refusal := .next s

/-- A table row's word, sent by the host as its very next event (log 5). -/
def offerWord (nbits w : Nat) (s : State) : State :=
  { s with inputs := .command (BitVec.ofNat 64 (w % 2 ^ nbits)) :: s.inputs }

end Sys2Proof.Machine
end

