-- ==== Sys2Proof/Machine/Step.lean ====
section
/-! DEFINITION. One step: the block takes the host's oldest event and performs it whole, one atomic transition
(R75, R78, R306). -/

namespace Sys2Proof.Machine

/-- One step of the machine. -/
def step (s : State) : Host.Outcome State Fault Refusal :=
  match s.inputs with
  | [] => performIdle s
  | .command cw :: _ => performWord cw (acceptEvent s)
  | .reset :: _ => performReset (acceptEvent s)
  | .resetDuring cw :: _ => performResetDuring cw (acceptEvent s)

/-- `s` with a table row's word placed where `step` takes its next command from: the head of the host's events
(R32: NSCORE "fetches nothing. The host supplies commands one at a time"; log 5). -/
def State.withFetchWord (s : State) (nbits w : Nat) : State := offerWord nbits w s

end Sys2Proof.Machine
end

