-- ==== Sys2Proof/Machine/Assembler.lean ====
section
/-! DEFINITION. The text of the assembler (R98, R99): one line, as a list of characters, read into the abstract line of
Syntax.lean. R98 and R99 give the operand forms and their ranges; every lexical rule beside them (blanks, the case of
letters, digits, signs, underscores) is a DESIGN CHOICE that log 10 names. -/

namespace Sys2Proof.Assembler

/-- A space or a tab, and no other character, is a blank (DESIGN CHOICE, log 10). -/
def blank (c : Char) : Bool := c == ' ' || c == '\t'

/-- A line without its comment (R98: "A `;` starts a comment"). -/
def stripComment (l : List Char) : List Char := l.takeWhile (· != ';')

/-- Characters without the blanks at both ends. -/
def trim (l : List Char) : List Char := ((l.dropWhile blank).reverse.dropWhile blank).reverse

/-- The operands of a line, separated by commas (R98), without the blanks around each (DESIGN CHOICE, log 10). -/
def splitCommas : List Char → List Char → List (List Char)
  | acc, [] => [trim acc.reverse]
  | acc, c :: cs => if c == ',' then trim acc.reverse :: splitCommas [] cs else splitCommas (c :: acc) cs

/-- The value of a digit of a base; hexadecimal letters in either case (DESIGN CHOICE, log 10). The digit-group underscore
of R8 (`0x4E53_0001`) is no digit here, so an operand that holds one is refused (DESIGN CHOICE, log 10: R98 does not say
whether R8's notation is the assembler's too). -/
def digit (base : Nat) (c : Char) : Option Nat :=
  let v :=
    if '0' ≤ c ∧ c ≤ '9' then c.toNat - '0'.toNat
    else if 'A' ≤ c ∧ c ≤ 'F' then c.toNat - 'A'.toNat + 10
    else if 'a' ≤ c ∧ c ≤ 'f' then c.toNat - 'a'.toNat + 10
    else base
  if v < base then some v else none

/-- Digits of a base read after the value `acc`. -/
def digitsFrom (base : Nat) : Nat → List Char → Option Nat
  | acc, [] => some acc
  | acc, c :: cs =>
    match digit base c with
    | some d => digitsFrom base (acc * base + d) cs
    | none => none

/-- One digit or more of a base, leading zeros among them (DESIGN CHOICE, log 10). -/
def digits (base : Nat) : List Char → Option Nat
  | [] => none
  | c :: cs => digitsFrom base 0 (c :: cs)

/-- A natural number, decimal or `0x` hexadecimal (R98), the `x` in lower case and no sign (DESIGN CHOICE, log 10). -/
def natural : List Char → Option Nat
  | '0' :: 'x' :: cs => digits 16 cs
  | cs => digits 10 cs

/-- An integer, decimal or `0x` hexadecimal (R98); a minus sign may stand before either, and no plus sign (DESIGN CHOICE,
log 10). -/
def integer : List Char → Option Int
  | '-' :: cs => (natural cs).map (fun v => -Int.ofNat v)
  | cs => (natural cs).map Int.ofNat

/-- A decimal real without its sign: its digits as one number, and how many of them follow the point (R98). With a
point, a digit stands on each side of it; there is no exponent (DESIGN CHOICE, log 10). -/
def decimalReal (l : List Char) : Option (Nat × Nat) :=
  match l.dropWhile (· != '.') with
  | '.' :: frac =>
    match digits 10 (l.takeWhile (· != '.')), digits 10 frac with
    | some _, some _ => (digits 10 (l.takeWhile (· != '.') ++ frac)).map (fun v => (v, frac.length))
    | _, _ => none
  | _ => (digits 10 l).map (fun v => (v, 0))

/-- The operand `imm`: an integer, or `q(v)` with `v` a decimal real (R98). Blanks may stand inside the parentheses,
before and after `v`; none stands between `q` and `(` or after the minus sign, which stands inside (DESIGN CHOICE,
log 10). -/
def imm (l : List Char) : Option AsmImm :=
  match l with
  | 'q' :: '(' :: cs =>
    match cs.reverse with
    | ')' :: v =>
      match trim v.reverse with
      | '-' :: r => (decimalReal r).map (fun p => .q (-Int.ofNat p.1) p.2)
      | r => (decimalReal r).map (fun p => .q (Int.ofNat p.1) p.2)
    | _ => none
  | _ => (integer l).map .int

/-- The operand `smp`: a decimal integer, or a hexadecimal 16-bit pattern (R98). The pattern is `0x` and any number of
digits, without a sign (DESIGN CHOICE, log 10). -/
def smp : List Char → Option AsmSmp
  | '0' :: 'x' :: cs => (digits 16 cs).map .hex
  | '-' :: cs => (digits 10 cs).map (fun v => .dec (-Int.ofNat v))
  | cs => (digits 10 cs).map (fun v => .dec (Int.ofNat v))

/-- The names of the registers (R34, R98). -/
def regNames : List (List Char × RegName) :=
  [(['I', 'D'], .id), (['P', 'A', 'R', 'A', 'M', 'S'], .params), (['C', 'T', 'R', 'L'], .ctrl),
   (['S', 'T', 'A', 'T', 'U', 'S'], .status), (['C', 'F', 'G', '_', 'F', 'S'], .cfgFs),
   (['C', 'F', 'G', '_', 'F'], .cfgF), (['C', 'F', 'G', '_', 'T'], .cfgT), (['C', 'F', 'G', '_', 'N'], .cfgN),
   (['P', 'A', '_', 'N', '_', 'L', 'O'], .paNLo), (['P', 'A', '_', 'N', '_', 'H', 'I'], .paNHi),
   (['P', 'A', '_', 'I', 'D', 'X'], .paIdx)]

/-- The operand `reg`: a name, or an address in decimal or `0x` hexadecimal (R98; DESIGN CHOICE, log 10). -/
def reg (l : List Char) : Option AsmReg :=
  match regNames.lookup l with
  | some r => some (.name r)
  | none => (natural l).map .addr

/-- SETCTRL's operand `mode`: the name SYNTH or FILTER (R99). The numbers 0 and 1 are refused (DESIGN CHOICE, log 10:
"SYNTH=0 or FILTER=1" does not say whether a number may stand for its name). -/
def mode (l : List Char) : Option Mode :=
  [(['S', 'Y', 'N', 'T', 'H'], Mode.synth), (['F', 'I', 'L', 'T', 'E', 'R'], Mode.filter)].lookup l

/-- SETCTRL's operand `ovf`: the name SAT or WRAP (R99), never the number 0 or 1 (DESIGN CHOICE, log 10). -/
def ovf (l : List Char) : Option Ovf :=
  [(['S', 'A', 'T'], Ovf.sat), (['W', 'R', 'A', 'P'], Ovf.wrap)].lookup l

/-- SETCTRL's operand `shape`: the name NEGABS or IDENT (R99), never the number 0 or 1 (DESIGN CHOICE, log 10). -/
def shape (l : List Char) : Option Shape :=
  [(['N', 'E', 'G', 'A', 'B', 'S'], Shape.negabs), (['I', 'D', 'E', 'N', 'T'], Shape.ident)].lookup l

/-- A line of no operand. -/
def form0 (a : Asm) : List (List Char) → Option Asm
  | [] => some a
  | _ => none

/-- A line of one operand. -/
def form1 {α : Type} (f : α → Asm) (p : List Char → Option α) : List (List Char) → Option Asm
  | [x] => (p x).map f
  | _ => none

/-- A line of two operands. -/
def form2 {α β : Type} (f : α → β → Asm) (p : List Char → Option α) (q : List Char → Option β) :
    List (List Char) → Option Asm
  | [x, y] =>
    match p x, q y with
    | some a, some b => some (f a b)
    | _, _ => none
  | _ => none

/-- A line of three operands. -/
def form3 {α β γ : Type} (f : α → β → γ → Asm) (p : List Char → Option α) (q : List Char → Option β)
    (r : List Char → Option γ) : List (List Char) → Option Asm
  | [x, y, z] =>
    match p x, q y, r z with
    | some a, some b, some c => some (f a b c)
    | _, _, _ => none
  | _ => none

/-- What each mnemonic makes of its operands (R98, R99). CFGSYN's and CFGFLT's operands take every form of `imm`, since
they stand as WRREG's `imm` in the expansion (DEDUCED, log 10). -/
def forms : List (List Char × (List (List Char) → Option Asm)) :=
  [(['N', 'O', 'P'], form0 .nop), (['R', 'D', 'R', 'E', 'G'], form1 .rdreg reg),
   (['W', 'R', 'R', 'E', 'G'], form2 .wrreg reg imm), (['R', 'D', 'T', 'B', 'L'], form1 .rdtbl natural),
   (['W', 'R', 'T', 'B', 'L'], form2 .wrtbl natural imm), (['R', 'D', 'C', 'B'], form1 .rdcb natural),
   (['W', 'R', 'C', 'B'], form2 .wrcb natural imm), (['R', 'D', 'C', 'A'], form1 .rdca natural),
   (['W', 'R', 'C', 'A'], form2 .wrca natural imm), (['R', 'D', 'H', 'X'], form1 .rdhx natural),
   (['R', 'D', 'H', 'Y'], form1 .rdhy natural), (['S', 'T', 'A', 'R', 'T'], form0 .start),
   (['S', 'Y', 'N'], form0 .syn), (['F', 'L', 'T'], form1 .flt smp), (['C', 'L', 'R', 'S', 'T'], form0 .clrst),
   (['R', 'D', 'S', 'T'], form0 .rdst), (['S', 'E', 'T', 'C', 'T', 'R', 'L'], form3 .setctrl mode ovf shape),
   (['C', 'F', 'G', 'S', 'Y', 'N'], form3 .cfgsyn imm imm imm), (['C', 'F', 'G', 'F', 'L', 'T'], form2 .cfgflt imm imm)]

/-- The mnemonic of a line, its comment and outer blanks gone. -/
def mnemonicOf (l : List Char) : List Char := l.takeWhile (fun c => !blank c)

/-- The operands of a line: what follows the mnemonic, at its commas; none where nothing follows. -/
def operandsOf (l : List Char) : List (List Char) :=
  match trim (l.dropWhile (fun c => !blank c)) with
  | [] => []
  | c :: cs => splitCommas [] (c :: cs)

/-- The abstract line that a mnemonic and its operands stand for. -/
def parse (l : List Char) : Option Asm :=
  match forms.lookup (mnemonicOf l) with
  | some f => f (operandsOf l)
  | none => none

/-- The words of one line of text: none where it is no line of R98 or R99 or an operand is out of range; no words where
only a comment or nothing stands on it. -/
def assembleLine (text : List Char) : Option (List CmdWord) :=
  match trim (stripComment text) with
  | [] => some []
  | c :: cs =>
    match parse (c :: cs) with
    | some a => assemble a
    | none => none

/-- The words of a text of lines, in order (R98: "one command per line"). -/
def assembleText : List (List Char) → Option (List CmdWord)
  | [] => some []
  | l :: ls =>
    match assembleLine l, assembleText ls with
    | some ws, some rest => some (ws ++ rest)
    | _, _ => none

end Sys2Proof.Assembler
end

