-- ==== Sys2Proof/Safety.lean ====
section
/-! DEFINITION. The terms claims use: how a command completes or fails (R10, R262), the states a run keeps to (`StateInv`,
`Reachable`), the legality table of R263, and the host's duties a claim may take as premises (R304, R308). -/

namespace Sys2Proof.Safety

open Sys2Proof.Machine

/-- The command ends OK with data `d`, and leaves the state `u` with that response delivered. -/
def OkWith (i : Instr) (s : State) (d : RespData) (u : State) : Prop :=
  exec i s = .next { u with responses := u.responses ++ [⟨0, d⟩] }

/-- The command takes the error path of R262 with code `c`: CERR and CCODE, the response `(c, 0)`, nothing else. -/
def ErrWith (i : Instr) (s : State) (c : Code) : Prop :=
  exec i s = .next { s with cerr := true, ccode := c, responses := s.responses ++ [⟨c, 0⟩] }

/-- START fails with fault code `fc` (R134): FCODE, FAULT and the response `(7, fc)`, nothing else. -/
def StartFails (s : State) (fc : Code) : Prop :=
  exec .start s = .next { s with st := .fault, fcode := fc, responses := s.responses ++ [⟨7, fc.setWidth 64⟩] }

/-- The two states agree on everything R30 gives the block (the model's own channels may differ). -/
def SameBlock (s t : State) : Prop := { t with inputs := s.inputs, responses := s.responses } = s

/-- What every step keeps, in every state reachable or not (R33, R38, R45, R47, R48, R132, R133, R173, R261). -/
structure StateInv (s : State) : Prop where
  /-- TBL keeps its canonical form. -/
  tbl_wf : Memory.wf s.tbl
  /-- START has checked the rate (R132). -/
  run_rate : s.st = .run → s.cfgFs.toNat ∈ Config.fsSet
  /-- START has checked T and f, and PA_IDX is an index of the table (R132, R173). -/
  run_synth : s.st = .run → s.ctrl.mode = .synth →
    1 ≤ s.cfgT.toNat ∧ s.cfgT.toNat ≤ 4096 ∧ 2 * s.cfgF.toNat < s.cfgFs.toNat ∧ s.paIdx.toNat < s.cfgT.toNat
  /-- START has checked N (R132). -/
  run_filter : s.st = .run → s.ctrl.mode = .filter → 1 ≤ s.cfgN.toNat ∧ s.cfgN.toNat ≤ 64
  /-- Entries N..63 of the histories stay 0 (R47, R48). -/
  tail_zero : s.st = .run → s.ctrl.mode = .filter → ∀ i, s.cfgN.toNat ≤ i → i < 64 →
    Bank.read s.x i = 0 ∧ Bank.read s.y i = 0
  /-- Only SYN moves the phase accumulator (R43, R44). -/
  phase_zero : ¬(s.st = .run ∧ s.ctrl.mode = .synth) → s.n = 0 ∧ s.paIdx = 0
  /-- Only FLT moves the histories and YSAT (R47, R48, R52). -/
  history_zero : ¬(s.st = .run ∧ s.ctrl.mode = .filter) →
    s.x = Vector.replicate 64 0 ∧ s.y = Vector.replicate 64 0 ∧ s.ysat = false
  /-- CLIP is set in RUN only (R52). -/
  clip_run : s.st ≠ .run → s.clip = false
  /-- FCODE records a failed START, and only then (R38, R261). -/
  fault_code : (s.fcode ≠ 0 ↔ s.st = .fault) ∧ s.fcode.toNat ≤ 4
  /-- CERR and CCODE are set and cleared together; codes 7 to 15 never stand in CCODE (R38, R261, R262). -/
  error_code : (s.cerr = true ↔ s.ccode ≠ 0) ∧ s.ccode.toNat ≤ 6
  /-- Codes 8 to 15 are never produced; a failing response has data 0, but for CONFIG_FAULT's 1 to 4 (R91, R261). -/
  responses_legal : ∀ r ∈ s.responses, r.rcode.toNat ≤ 7 ∧ (r.rcode ≠ 0 → r.rcode ≠ 7 → r.rdata = 0) ∧
    (r.rcode = 7 → 1 ≤ r.rdata.toNat ∧ r.rdata.toNat ≤ 4)

/-- The states of a run from reset, whatever the host does (R311). -/
inductive Reachable : State → Prop where
  | start (events : List HostEvent) : Reachable { State.reset with inputs := events }
  | next {s t : State} : Reachable s → step s = .next t → Reachable t

/-- The response code R263's table and priority give a command in a state. -/
def legalityCode (i : Instr) (s : State) : Code :=
  match i with
  | .nop => 0
  | .rdtbl _ => 0
  | .rdreg a => if a.toNat > 0x00A then 2 else 0
  | .rdcb i => if i.toNat ≥ 64 then 2 else 0
  | .rdca i => if i.toNat ≥ 64 then 2 else 0
  | .rdhx i => if i.toNat ≥ 64 then 2 else 0
  | .rdhy i => if i.toNat ≥ 64 then 2 else 0
  | .wrreg a v =>
    if a.toNat > 0x00A then 2
    else if a.toNat ∈ [0x000, 0x001, 0x008, 0x009, 0x00A] then 3
    else if a.toNat = 0x003 then 0
    else match s.st with
      | .config => if a.toNat = 0x002 ∧ v.toNat ≥ 8 then 6 else 0
      | .run => 4
      | .fault => 4
  | .wrtbl _ _ => match s.st with | .config => 0 | .run => 4 | .fault => 4
  | .wrcb i _ => if i.toNat ≥ 64 then 2 else match s.st with | .config => 0 | .run => 4 | .fault => 4
  | .wrca i _ => if i.toNat ≥ 64 then 2 else match s.st with | .config => 0 | .run => 4 | .fault => 4
  | .start => match s.st with | .config => if validate s = 0 then 0 else 7 | .run => 4 | .fault => 4
  | .syn => match s.st with | .config => 4 | .run => if s.ctrl.mode = .synth then 0 else 5 | .fault => 4
  | .flt _ => match s.st with | .config => 4 | .run => if s.ctrl.mode = .filter then 0 else 5 | .fault => 4

/-- The tick command of the active engine (R308(a)). -/
def ActiveTick (s : State) (i : Instr) : Prop :=
  (s.ctrl.mode = .synth ∧ i = .syn) ∨ (s.ctrl.mode = .filter ∧ ∃ v, i = .flt v)

/-- Boot step 4 in SYNTH mode: the first T entries hold the host's table `ref` (R304; R305 makes it a host duty). -/
def TableLoaded (s : State) (ref : Nat → QWord) : Prop := ∀ i < s.cfgT.toNat, Memory.read s.tbl i = ref i

/-- Boot step 4 in FILTER mode: `B[0..N-1]` and `A[1..N-1]` hold the host's coefficients (R304). -/
def CoefficientsLoaded (s : State) (b a : Nat → QWord) : Prop :=
  (∀ i < s.cfgN.toNat, Bank.read s.b i = b i) ∧ ∀ i, 1 ≤ i → i < s.cfgN.toNat → Bank.read s.a i = a i

/-- A table of a unit-amplitude waveform: raw values in `[-2^24, 2^24]` (R152). -/
def UnitAmplitude (s : State) : Prop :=
  ∀ i < s.cfgT.toNat, -16777216 ≤ (Memory.read s.tbl i).toInt ∧ (Memory.read s.tbl i).toInt ≤ 16777216

/-- One FLT after another, one per sample (R212, R308). -/
def filterTicks : List SampleWord → State → Host.Outcome State Fault Refusal
  | [], s => .next s
  | v :: vs, s =>
    match exec (.flt v) s with
    | .next t => filterTicks vs t
    | .fault r => .fault r
    | .refused r => .refused r

end Sys2Proof.Safety
end

