-- ==== Sys2Proof/Certificates/Slice0/Obligations.lean ====
section
/-! DEFINITION. The statements for the provers, in the order of OBLIGATIONS.json. Each docstring names the rule of
spec/ a statement formalises. -/

open Sys2Proof Sys2Proof.Machine Sys2Proof.Safety

/-! ### Encoding -/

/-- R90, R92, R93: no bit of a command's encoding is dropped, for all 14 commands and every operand value. -/
def Obligations.EncodedCommandDecodesToItself : Prop :=
  ∀ i : Instr, decode (encode i) = .ok i

/-- R90, R92, R93: a word that decodes is the word of the command it decodes to, so each word has one meaning. -/
def Obligations.DecodedWordIsTheCommandsWord : Prop :=
  ∀ (cw : CmdWord) (i : Instr), decode cw = .ok i → encode i = cw

/-- R93, R94: a word decodes to a row's command exactly when it matches the row under the format's mask, with IDX, IMM
and SMP the fields of R90; a reserved opcode is rejected as such; an illegal word is a command error with code 1. -/
def Obligations.OpcodeMapDecidesDecoding : Prop :=
  ∀ cw : CmdWord,
    (decode cw = .ok .nop ↔ cw &&& 0xFFFFFFFFFFFFFFFF = 0x0000000000000000) ∧
    (decode cw = .ok (.rdreg (cw.extractLsb' 16 12)) ↔ cw &&& 0xFFFFFFFFF000FFFF = 0x0000000010000000) ∧
    (decode cw = .ok (.wrreg (cw.extractLsb' 16 12) (cw.extractLsb' 32 32)) ↔
      cw &&& 0x00000000F000FFFF = 0x0000000020000000) ∧
    (decode cw = .ok (.rdtbl (cw.extractLsb' 16 12)) ↔ cw &&& 0xFFFFFFFFF000FFFF = 0x0000000030000000) ∧
    (decode cw = .ok (.wrtbl (cw.extractLsb' 16 12) (cw.extractLsb' 32 32)) ↔
      cw &&& 0x00000000F000FFFF = 0x0000000040000000) ∧
    (decode cw = .ok (.rdcb (cw.extractLsb' 16 12)) ↔ cw &&& 0xFFFFFFFFF000FFFF = 0x0000000050000000) ∧
    (decode cw = .ok (.wrcb (cw.extractLsb' 16 12) (cw.extractLsb' 32 32)) ↔
      cw &&& 0x00000000F000FFFF = 0x0000000060000000) ∧
    (decode cw = .ok (.rdca (cw.extractLsb' 16 12)) ↔ cw &&& 0xFFFFFFFFF000FFFF = 0x0000000070000000) ∧
    (decode cw = .ok (.wrca (cw.extractLsb' 16 12) (cw.extractLsb' 32 32)) ↔
      cw &&& 0x00000000F000FFFF = 0x0000000080000000) ∧
    (decode cw = .ok (.rdhx (cw.extractLsb' 16 12)) ↔ cw &&& 0xFFFFFFFFF000FFFF = 0x0000000090000000) ∧
    (decode cw = .ok (.rdhy (cw.extractLsb' 16 12)) ↔ cw &&& 0xFFFFFFFFF000FFFF = 0x00000000A0000000) ∧
    (decode cw = .ok .start ↔ cw &&& 0xFFFFFFFFFFFFFFFF = 0x00000000B0000000) ∧
    (decode cw = .ok .syn ↔ cw &&& 0xFFFFFFFFFFFFFFFF = 0x00000000C0000000) ∧
    (decode cw = .ok (.flt (cw.extractLsb' 0 16)) ↔ cw &&& 0xFFFFFFFFFFFF0000 = 0x00000000D0000000) ∧
    (decode cw = .error .reservedOpcode ↔ cw.extractLsb' 28 4 = 0xE ∨ cw.extractLsb' 28 4 = 0xF) ∧
    (∀ e s, decode cw = .error e →
      performWord cw s = .next { s with cerr := true, ccode := 1, responses := s.responses ++ [⟨1, 0⟩] })

/-- R96: a reserved opcode or a nonzero reserved field makes a word illegal, and it ends with ILLEGAL; only the
all-zero word encodes NOP. The formats are Z for 0x0, 0xB and 0xC, S for 0xD, W for 0x2, 0x4, 0x6 and 0x8, else A. -/
def Obligations.ReservedWordEndsIllegal : Prop :=
  (∀ (s : State) (cw : CmdWord) (rest : List HostEvent), s.inputs = .command cw :: rest →
    (cw.extractLsb' 28 4 ∈ [0xE#4, 0xF#4] ∨
      (cw.extractLsb' 28 4 ∈ [0x0#4, 0xB#4, 0xC#4] ∧
        (cw.extractLsb' 32 32 ≠ 0#32 ∨ cw.extractLsb' 16 12 ≠ 0#12 ∨ cw.extractLsb' 0 16 ≠ 0#16)) ∨
      (cw.extractLsb' 28 4 ∈ [0x1#4, 0x3#4, 0x5#4, 0x7#4, 0x9#4, 0xA#4] ∧
        (cw.extractLsb' 32 32 ≠ 0#32 ∨ cw.extractLsb' 0 16 ≠ 0#16)) ∨
      (cw.extractLsb' 28 4 ∈ [0x2#4, 0x4#4, 0x6#4, 0x8#4] ∧ cw.extractLsb' 0 16 ≠ 0#16) ∨
      (cw.extractLsb' 28 4 = 0xD#4 ∧ (cw.extractLsb' 32 32 ≠ 0#32 ∨ cw.extractLsb' 16 12 ≠ 0#12))) →
    step s = .next { s with inputs := rest, cerr := true, ccode := 1, responses := s.responses ++ [⟨1, 0⟩] }) ∧
  (∀ cw : CmdWord, decode cw = .ok .nop ↔ cw = 0)

/-- R100: the ten worked encodings, from their text (R98, R99) to the word and from the word to the command. -/
def Obligations.WorkedEncodingsHold : Prop :=
  Assembler.assembleLine "WRREG CFG_FS, 8000".toList = some [0x00001F4020040000] ∧
  Assembler.assembleLine "WRREG CFG_F, 1000".toList = some [0x000003E820050000] ∧
  Assembler.assembleLine "WRREG CFG_T, 256".toList = some [0x0000010020060000] ∧
  Assembler.assembleLine "WRREG CTRL, 1".toList = some [0x0000000120020000] ∧
  Assembler.assembleLine "WRCB 1, q(0.5)".toList = some [0x0080000060010000] ∧
  Assembler.assembleLine "WRCA 1, q(-0.5)".toList = some [0xFF80000080010000] ∧
  Assembler.assembleLine "FLT -1".toList = some [0x00000000D000FFFF] ∧
  Assembler.assembleLine "FLT 1000".toList = some [0x00000000D00003E8] ∧
  Assembler.assembleLine "RDHY 3".toList = some [0x00000000A0030000] ∧
  Assembler.assembleLine "CLRST".toList = some [0x0000001C20030000] ∧
  decode 0x00001F4020040000 = .ok (.wrreg 4 8000) ∧
  decode 0x000003E820050000 = .ok (.wrreg 5 1000) ∧
  decode 0x0000010020060000 = .ok (.wrreg 6 256) ∧
  decode 0x0000000120020000 = .ok (.wrreg 2 1) ∧
  decode 0x0080000060010000 = .ok (.wrcb 1 0x00800000) ∧
  decode 0xFF80000080010000 = .ok (.wrca 1 0xFF800000) ∧
  decode 0x00000000D000FFFF = .ok (.flt 0xFFFF) ∧
  decode 0x00000000D00003E8 = .ok (.flt 0x03E8) ∧
  decode 0x00000000A0030000 = .ok (.rdhy 3) ∧
  decode 0x0000001C20030000 = .ok (.wrreg 3 0x1C)

/-! ### The step, reset and the channels -/

/-- R75, R78, R306: a step performs the host's oldest command whole; `acceptEvent` leaves the later events with the
host. -/
def Obligations.StepPerformsTheDecodedCommand : Prop :=
  ∀ (s : State) (cw : CmdWord) (i : Instr) (rest : List HostEvent), s.inputs = .command cw :: rest →
    decode cw = .ok i → step s = exec i { s with inputs := rest }

/-- R276: with no event of the host, the block is idle and holds its state. -/
def Obligations.IdleBlockHoldsItsState : Prop :=
  ∀ s : State, s.inputs = [] → step s = .next s

/-- R91: every command produces exactly one response, a 4-bit code no greater than 7 and 64 bits of data; the data is 0
for a command that returns no data and for a command that fails, except that CONFIG_FAULT returns its fault code. The
command takes exactly one event of the host (R306). -/
def Obligations.EveryCommandGivesOneResponse : Prop :=
  ∀ (s t : State) (cw : CmdWord) (rest : List HostEvent), s.inputs = .command cw :: rest → step s = .next t →
    ∃ r : Response, t.responses = s.responses ++ [r] ∧ t.inputs = rest ∧ r.rcode.toNat ≤ 7 ∧
      (r.rcode ≠ 0 → r.rcode ≠ 7 → r.rdata = 0) ∧
      (r.rcode = 7 → decode cw = .ok .start ∧ r.rdata = t.fcode.setWidth 64 ∧ t.fcode ≠ 0) ∧
      (r.rcode = 0 → (∃ i, decode cw = .ok i ∧ (i = .nop ∨ i = .start ∨
        ∃ idx v, i = .wrreg idx v ∨ i = .wrtbl idx v ∨ i = .wrcb idx v ∨ i = .wrca idx v)) → r.rdata = 0)

/-- R300, R303: reset, between commands or during one, puts every element at its reset value whatever the state was;
it delivers no response (the list of responses begins anew, the model's choice, log 2); and it is the only event that
leaves RUN or FAULT. -/
def Obligations.ResetPutsEveryElement : Prop :=
  (∀ (s : State) (cw : CmdWord) (rest : List HostEvent),
    s.inputs = .reset :: rest ∨ s.inputs = .resetDuring cw :: rest →
    ∃ t, step s = .next t ∧ t.st = .config ∧ t.ctrl = ⟨.synth, .sat, .negabs⟩ ∧
      t.clip = false ∧ t.ysat = false ∧ t.cerr = false ∧ t.ccode = 0 ∧ t.fcode = 0 ∧
      t.cfgFs = 0 ∧ t.cfgF = 0 ∧ t.cfgT = 0 ∧ t.cfgN = 0 ∧ t.n = 0 ∧ t.paIdx = 0 ∧
      (∀ i, Memory.read t.tbl i = 0) ∧
      (∀ i < 64, Bank.read t.b i = 0 ∧ Bank.read t.a i = 0 ∧ Bank.read t.x i = 0 ∧ Bank.read t.y i = 0) ∧
      t.responses.length ≤ s.responses.length) ∧
  (∀ s t : State, step s = .next t → s.st = .run ∨ s.st = .fault → t.st ≠ s.st →
    ∃ rest, s.inputs = .reset :: rest ∨ ∃ cw, s.inputs = .resetDuring cw :: rest)

/-! ### Operating states and the registers -/

/-- R33: ST's values and reset, START's two moves, no command leaves RUN or FAULT, a reset does, and STATUS.STATE
reads ST. -/
def Obligations.OperatingStateMoves : Prop :=
  (OpState.bits .config = 0 ∧ OpState.bits .run = 1 ∧ OpState.bits .fault = 2 ∧ ∀ st, OpState.bits st ≠ 3) ∧
  State.reset.st = .config ∧
  (∀ s : State, s.st = .config → ∃ t, exec .start s = .next t ∧
    ((validate s = 0 ∧ t.st = .run) ∨ (validate s ≠ 0 ∧ t.st = .fault))) ∧
  (∀ (i : Instr) (s t : State), exec i s = .next t → t.st ≠ s.st → i = .start ∧ s.st = .config) ∧
  (∀ (s : State) (rest : List HostEvent), s.inputs = .reset :: rest → ∃ t, step s = .next t ∧ t.st = .config) ∧
  (∀ s : State, ∃ d : RespData, OkWith (.rdreg 0x003) s d s ∧ d.extractLsb' 0 2 = s.st.bits)

/-- R123: a legal value of CTRL is stored exactly (and reads back as written, R37); a value with SHAPE 2 or 3 or a bit
of 31:4 set fails with BAD_VALUE and changes nothing of CTRL; outside CONFIG every write fails with BAD_STATE. `v < 8` is
exactly `v[31:4] = 0` and `v[3:2] in {0, 1}`. -/
def Obligations.CtrlStoresLegalValuesExactly : Prop :=
  ∀ (s : State) (v : RegWord),
    (s.st = .config → v.toNat < 8 →
      ∃ c : Ctrl, OkWith (.wrreg 0x002 v) s 0 { s with ctrl := c } ∧
        OkWith (.rdreg 0x002) { s with ctrl := c } (v.setWidth 64) { s with ctrl := c } ∧
        (c.mode = .filter ↔ v.getLsbD 0 = true) ∧ (c.ovf = .wrap ↔ v.getLsbD 1 = true) ∧
        (c.shape = .ident ↔ v.extractLsb' 2 2 = 1)) ∧
    (s.st = .config → 8 ≤ v.toNat → ErrWith (.wrreg 0x002 v) s 6) ∧
    (s.st ≠ .config → ErrWith (.wrreg 0x002 v) s 4)

/-- R124: a write of STATUS is OK in every state, and clears CLIP, YSAT, and CERR with CCODE, where bits 2, 3 and 4 of
the value are 1, and nothing else. -/
def Obligations.StatusWriteClearsFlags : Prop :=
  ∀ (s : State) (v : RegWord), ∃ t, OkWith (.wrreg 0x003 v) s 0 t ∧
    t.clip = (if v.getLsbD 2 then false else s.clip) ∧ t.ysat = (if v.getLsbD 3 then false else s.ysat) ∧
    t.cerr = (if v.getLsbD 4 then false else s.cerr) ∧ t.ccode = (if v.getLsbD 4 then 0 else s.ccode) ∧
    { t with clip := s.clip, ysat := s.ysat, cerr := s.cerr, ccode := s.ccode } = s

/-- R121, with R37's and R38's words: what RDREG answers at each of the eleven implemented addresses, in every state,
and that it changes nothing; BAD_INDEX above 0x00A. -/
def Obligations.RdregReadsTheRegister : Prop :=
  ∀ s : State,
    OkWith (.rdreg 0x000) s 0x4E530001 s ∧
    OkWith (.rdreg 0x001) s 0x00401000 s ∧
    (∃ d, OkWith (.rdreg 0x002) s d s ∧ d.getLsbD 0 = (s.ctrl.mode == .filter) ∧
      d.getLsbD 1 = (s.ctrl.ovf == .wrap) ∧ d.getLsbD 2 = (s.ctrl.shape == .ident) ∧ d.extractLsb' 3 61 = 0) ∧
    (∃ d, OkWith (.rdreg 0x003) s d s ∧ d.extractLsb' 0 2 = s.st.bits ∧ d.getLsbD 2 = s.clip ∧
      d.getLsbD 3 = s.ysat ∧ d.getLsbD 4 = s.cerr ∧ d.extractLsb' 5 3 = 0 ∧ d.extractLsb' 8 4 = s.ccode ∧
      d.extractLsb' 12 4 = s.fcode ∧ d.extractLsb' 16 48 = 0) ∧
    OkWith (.rdreg 0x004) s (BitVec.ofNat 64 s.cfgFs.toNat) s ∧
    OkWith (.rdreg 0x005) s (BitVec.ofNat 64 s.cfgF.toNat) s ∧
    OkWith (.rdreg 0x006) s (BitVec.ofNat 64 s.cfgT.toNat) s ∧
    OkWith (.rdreg 0x007) s (BitVec.ofNat 64 s.cfgN.toNat) s ∧
    OkWith (.rdreg 0x008) s (BitVec.ofNat 64 (s.n.toNat % 2 ^ 32)) s ∧
    OkWith (.rdreg 0x009) s (BitVec.ofNat 64 (s.n.toNat / 2 ^ 32)) s ∧
    OkWith (.rdreg 0x00A) s (BitVec.ofNat 64 s.paIdx.toNat) s ∧
    (∀ a : Index, 0x00A < a.toNat → ErrWith (.rdreg a) s 2)

/-- R125: in CONFIG a CFG register stores all 32 bits of any value, and nothing else changes; else BAD_STATE. -/
def Obligations.WrregStoresConfiguration : Prop :=
  ∀ (s : State) (v : RegWord),
    (s.st = .config →
      OkWith (.wrreg 0x004 v) s 0 { s with cfgFs := v } ∧ OkWith (.wrreg 0x005 v) s 0 { s with cfgF := v } ∧
      OkWith (.wrreg 0x006 v) s 0 { s with cfgT := v } ∧ OkWith (.wrreg 0x007 v) s 0 { s with cfgN := v }) ∧
    (s.st ≠ .config →
      ErrWith (.wrreg 0x004 v) s 4 ∧ ErrWith (.wrreg 0x005 v) s 4 ∧
      ErrWith (.wrreg 0x006 v) s 4 ∧ ErrWith (.wrreg 0x007 v) s 4)

/-- R126: WRREG to a read-only register fails with READ_ONLY and to an unimplemented address with BAD_INDEX, in every
state; and no WRREG that goes on changes `n` or PA_IDX. -/
def Obligations.WrregRefusesReadOnlyAndUnimplemented : Prop :=
  (∀ (s : State) (a : Index) (v : RegWord),
    (a.toNat ∈ [0x000, 0x001, 0x008, 0x009, 0x00A] → ErrWith (.wrreg a v) s 3) ∧
    (0x00B ≤ a.toNat → ErrWith (.wrreg a v) s 2)) ∧
  (∀ (i : Instr) (s t : State), exec i s = .next t → i ≠ .syn → t.n = s.n ∧ t.paIdx = s.paIdx)

/-- R120: NOP is the all-zero word; it responds OK with data 0 and changes no state, in every state. -/
def Obligations.NopChangesNothing : Prop :=
  decode 0 = .ok .nop ∧ ∀ s : State, OkWith .nop s 0 s

/-! ### START -/

/-- R131, R132: START's checks in their order, what success and each failure leave, and BAD_STATE outside
CONFIG. -/
def Obligations.StartValidatesThenRunsOrFaults : Prop :=
  ∀ s : State,
    (s.st ≠ .config → ErrWith .start s 4) ∧
    (s.st = .config → s.cfgFs.toNat ∉ [8000, 16000, 24000, 32000, 44100, 48000, 96000] → StartFails s 1) ∧
    (s.st = .config → s.cfgFs.toNat ∈ [8000, 16000, 24000, 32000, 44100, 48000, 96000] →
      (s.ctrl.mode = .synth →
        (s.cfgT.toNat = 0 ∨ 4096 < s.cfgT.toNat → StartFails s 2) ∧
        (1 ≤ s.cfgT.toNat → s.cfgT.toNat ≤ 4096 → s.cfgFs.toNat ≤ 2 * s.cfgF.toNat → StartFails s 3) ∧
        (1 ≤ s.cfgT.toNat → s.cfgT.toNat ≤ 4096 → 2 * s.cfgF.toNat < s.cfgFs.toNat →
          OkWith .start s 0 { s with st := .run })) ∧
      (s.ctrl.mode = .filter →
        (s.cfgN.toNat = 0 ∨ 64 < s.cfgN.toNat → StartFails s 4) ∧
        (1 ≤ s.cfgN.toNat → s.cfgN.toNat ≤ 64 → OkWith .start s 0 { s with st := .run })))

/-- R133: a START that enters RUN changes ST and nothing else, and finds `n`, PA_IDX, X and Y at 0. `StateInv` rules out
states no run reaches. -/
def Obligations.StartBeginsWithZeroPhaseAndHistory : Prop :=
  ∀ s t : State, StateInv s → exec .start s = .next t → s.st = .config → t.st = .run →
    { t with st := .config, responses := s.responses } = s ∧ t.n = 0 ∧ t.paIdx = 0 ∧
    ∀ i < 64, Bank.read t.x i = 0 ∧ Bank.read t.y i = 0

/-- R135: START with CFG_FS at its reset value 0 fails with FS_INVALID; in SYNTH mode, with a legal rate and table size,
`CFG_F = 0` succeeds, and at 44100 Hz 22050 fails and 22049 succeeds; the rule's example; a START in RUN or FAULT fails
with BAD_STATE and leaves ST. -/
def Obligations.StartCornerCases : Prop :=
  (StartFails State.reset 1 ∧ ∀ s : State, s.st = .config → s.cfgFs = 0 → StartFails s 1) ∧
  (∀ s : State, s.st = .config → s.ctrl.mode = .synth → 1 ≤ s.cfgT.toNat → s.cfgT.toNat ≤ 4096 →
    (s.cfgFs.toNat ∈ [8000, 16000, 24000, 32000, 44100, 48000, 96000] → s.cfgF = 0 →
      OkWith .start s 0 { s with st := .run }) ∧
    (s.cfgFs = 44100 → s.cfgF = 22050 → StartFails s 3) ∧
    (s.cfgFs = 44100 → s.cfgF = 22049 → OkWith .start s 0 { s with st := .run })) ∧
  (∃ t, exec .start { State.reset with cfgFs := 8000, cfgF := 4000, cfgT := 256 } = .next t ∧
    t.responses = [⟨7, 3⟩] ∧ statusWord t = 0x00003002) ∧
  (∀ s : State, s.st = .run ∨ s.st = .fault → ErrWith .start s 4)

/-! ### The wave table -/

/-- R150: RDTBL answers the entry, sign-extended, for every 12-bit index and in every state, and changes nothing. -/
def Obligations.RdtblReadsTheEntry : Prop :=
  ∀ (s : State) (i : Index), OkWith (.rdtbl i) s ((Memory.read s.tbl i.toNat).signExtend 64) s

/-- R151: in CONFIG, WRTBL stores its 32 bits at the index and leaves every other entry and everything else; in RUN
and FAULT it fails with BAD_STATE. -/
def Obligations.WrtblStoresOneEntry : Prop :=
  ∀ (s : State) (i : Index) (v : RegWord),
    (s.st = .config → ∃ t, OkWith (.wrtbl i v) s 0 t ∧ Memory.read t.tbl i.toNat = v ∧
      (∀ j, j ≠ i.toNat → Memory.read t.tbl j = Memory.read s.tbl j) ∧ { t with tbl := s.tbl } = s) ∧
    (s.st ≠ .config → ErrWith (.wrtbl i v) s 4)

/-- The model's canonical form (log 6): tables in it that read alike at every entry are one and the same data. -/
def Obligations.TablesThatReadAlikeAreEqual : Prop :=
  ∀ m m' : Memory, Memory.wf m → Memory.wf m' → (∀ i < 4096, Memory.read m i = Memory.read m' i) → m = m'

/-! ### SYN -/

/-- R172, R176, R177, R178, R241, R243: SYN in RUN and SYNTH mode, the whole of its effect; `n` before the increment
gives the index. Its errors: BAD_STATE outside RUN, then MODE in FILTER mode. -/
def Obligations.SynProducesOneSample : Prop :=
  (∀ s : State, s.st = .run → s.ctrl.mode = .synth → s.cfgFs.toNat ≠ 0 → 1 ≤ s.cfgT.toNat → s.cfgT.toNat ≤ 4096 →
    ∃ (t : State) (idx : Nat) (r p k out : Int),
      idx = s.n.toNat * s.cfgF.toNat * s.cfgT.toNat / s.cfgFs.toNat % s.cfgT.toNat ∧
      r = (Memory.read s.tbl idx).toInt ∧
      p = (match s.ctrl.shape with | .negabs => -|r| | .ident => r) * 32767 ∧
      k = Int.tdiv p (2 ^ 24) ∧
      out = (match s.ctrl.ovf with
        | .sat => max (-32768) (min 32767 k)
        | .wrap => (k + 32768) % 65536 - 32768) ∧
      OkWith .syn s (BitVec.ofInt 64 out) t ∧
      t.n.toNat = (s.n.toNat + 1) % 2 ^ 64 ∧ t.paIdx.toNat = idx ∧
      t.clip = (s.clip || decide (k < -32768 ∨ 32767 < k)) ∧
      { t with n := s.n, paIdx := s.paIdx, clip := s.clip } = s) ∧
  (∀ s : State, s.st ≠ .run → ErrWith .syn s 4) ∧
  (∀ s : State, s.st = .run → s.ctrl.mode = .filter → ErrWith .syn s 5)

/-- R173, and R172's bound: in RUN and SYNTH mode the index is below T, so no entry beyond T-1 is read, and the exact
product is below 2^92. `StateInv` rules out states no run reaches. -/
def Obligations.SynIndexStaysInTheTable : Prop :=
  ∀ s : State, StateInv s → s.st = .run → s.ctrl.mode = .synth →
    synIndex s < s.cfgT.toNat ∧ s.cfgT.toNat - 1 ≤ 4095 ∧
    s.n.toNat * s.cfgF.toNat * s.cfgT.toNat < 2 ^ 92 ∧
    ∃ t, exec .syn s = .next t ∧ t.paIdx.toNat = synIndex s

/-- R174: `T*fs/f`, and `fs/f`, are periods of the index where they are integers; for 8000, 1000 and 256 the least
period is 8; across the wrap of `n` at 2^64 the sequence is not periodic in general. -/
def Obligations.IndexSequenceIsPeriodic : Prop :=
  (∀ n f t fs P : Nat, 0 < fs → 0 < t → P * f = t * fs → nextIndex (n + P) f t fs = nextIndex n f t fs) ∧
  (∀ n f t fs q : Nat, 0 < fs → 0 < t → q * f = fs → nextIndex (n + q) f t fs = nextIndex n f t fs) ∧
  ((∀ n, nextIndex (n + 8) 1000 256 8000 = nextIndex n 1000 256 8000) ∧
    ∀ p, 0 < p → p < 8 → ∃ n, nextIndex (n + p) 1000 256 8000 ≠ nextIndex n 1000 256 8000) ∧
  (∃ n, n + 44100 = 2 ^ 64 ∧ nextIndex n 1000 1000 44100 ≠ nextIndex 0 1000 1000 44100)

/-- R171: a quotient and a remainder of `n*f*T` by `fs`, carried from one SYN to the next, yield R172's index at every
SYN. The SYN uses the quotient modulo T; where `n` does not wrap, adding `f*T` gives the next SYN's quotient, remainder
and index; where `n` wraps to 0 (R172), they begin again at 0. -/
def Obligations.IncrementalPhaseYieldsTheSameIndex : Prop :=
  ∀ (s u : State) (q r : Nat), s.st = .run → s.ctrl.mode = .synth → exec .syn s = .next u →
    q = s.n.toNat * s.cfgF.toNat * s.cfgT.toNat / s.cfgFs.toNat →
    r = s.n.toNat * s.cfgF.toNat * s.cfgT.toNat % s.cfgFs.toNat →
    u.paIdx.toNat = q % s.cfgT.toNat ∧
    (s.n.toNat + 1 < 2 ^ 64 →
      q + (r + s.cfgF.toNat * s.cfgT.toNat) / s.cfgFs.toNat =
        u.n.toNat * u.cfgF.toNat * u.cfgT.toNat / u.cfgFs.toNat ∧
      (r + s.cfgF.toNat * s.cfgT.toNat) % s.cfgFs.toNat =
        u.n.toNat * u.cfgF.toNat * u.cfgT.toNat % u.cfgFs.toNat ∧
      synIndex u = (q + (r + s.cfgF.toNat * s.cfgT.toNat) / s.cfgFs.toNat) % s.cfgT.toNat) ∧
    (s.n.toNat + 1 = 2 ^ 64 →
      u.n.toNat * u.cfgF.toNat * u.cfgT.toNat / u.cfgFs.toNat = 0 ∧
      u.n.toNat * u.cfgF.toNat * u.cfgT.toNat % u.cfgFs.toNat = 0 ∧ synIndex u = 0)

/-- R179: with NEGABS under SAT every output is in [-32768, 0] (that this first sentence is about SAT is the model's
reading, log 11); under both policies a table of unit amplitude gives `-fdiv(abs(r) * 32767, 2^24)`, in [-32767, 0], and
never sets CLIP. -/
def Obligations.NegabsOutputsAreNeverPositive : Prop :=
  ∀ s t : State, s.st = .run → s.ctrl.mode = .synth → s.ctrl.shape = .negabs →
    s.cfgFs.toNat ≠ 0 → 1 ≤ s.cfgT.toNat → s.cfgT.toNat ≤ 4096 → exec .syn s = .next t →
    ∃ r : Response, t.responses = s.responses ++ [r] ∧
      (s.ctrl.ovf = .sat → -32768 ≤ r.sample ∧ r.sample ≤ 0) ∧
      (UnitAmplitude s → t.clip = s.clip ∧ -32767 ≤ r.sample ∧ r.sample ≤ 0 ∧
        r.sample = -(|(Memory.read s.tbl (synIndex s)).toInt| * 32767 / 2 ^ 24))

/-! ### Coefficients and histories -/

/-- R200, R202, R205, and R204: the four file reads, in every state: the entry sign-extended, nothing changed; BAD_INDEX
for 64 and above. -/
def Obligations.FileReadsAnswerTheEntry : Prop :=
  ∀ (s : State) (i : Index),
    (i.toNat < 64 →
      OkWith (.rdcb i) s ((Bank.read s.b i.toNat).signExtend 64) s ∧
      OkWith (.rdca i) s ((Bank.read s.a i.toNat).signExtend 64) s ∧
      OkWith (.rdhx i) s ((Bank.read s.x i.toNat).signExtend 64) s ∧
      OkWith (.rdhy i) s ((Bank.read s.y i.toNat).signExtend 64) s) ∧
    (64 ≤ i.toNat →
      ErrWith (.rdcb i) s 2 ∧ ErrWith (.rdca i) s 2 ∧ ErrWith (.rdhx i) s 2 ∧ ErrWith (.rdhy i) s 2)

/-- R201, R203: in CONFIG, WRCB and WRCA store one coefficient (A[0] too) and leave every other entry and everything
else; BAD_INDEX for 64 and above in every state, before BAD_STATE. -/
def Obligations.CoefficientWritesStoreOneEntry : Prop :=
  ∀ (s : State) (i : Index) (v : RegWord),
    (i.toNat < 64 → s.st = .config →
      (∃ t, OkWith (.wrcb i v) s 0 t ∧ Bank.read t.b i.toNat = v ∧
        (∀ j, j ≠ i.toNat → Bank.read t.b j = Bank.read s.b j) ∧ { t with b := s.b } = s) ∧
      (∃ t, OkWith (.wrca i v) s 0 t ∧ Bank.read t.a i.toNat = v ∧
        (∀ j, j ≠ i.toNat → Bank.read t.a j = Bank.read s.a j) ∧ { t with a := s.a } = s)) ∧
    (i.toNat < 64 → s.st ≠ .config → ErrWith (.wrcb i v) s 4 ∧ ErrWith (.wrca i v) s 4) ∧
    (64 ≤ i.toNat → ErrWith (.wrcb i v) s 2 ∧ ErrWith (.wrca i v) s 2)

/-- R210, R211: a push on a history of length N shifts entries 0..N-2 up by one, puts the new value at 0, and leaves
entries N..63. -/
def Obligations.PushShiftsTheHistory : Prop :=
  ∀ (w len : Nat) (v : BitVec w) (f : Bank w), 1 ≤ len → len ≤ 64 → ∀ i < 64,
    Bank.read (pushHistory len v f) i =
      if i = 0 then v else if i < len then Bank.read f (i - 1) else Bank.read f i

/-! ### FLT -/

/-- R220 to R223, R241, R243, R244: FLT in RUN and FILTER mode, the whole of its effect, its sums written over the
histories as they were before the pushes. Its errors: BAD_STATE outside RUN, then MODE in SYNTH mode. -/
def Obligations.FltProducesOneSample : Prop :=
  (∀ (s : State) (smp : SampleWord), s.st = .run → s.ctrl.mode = .filter → s.cfgN.toNat ≤ 64 →
    ∃ (t : State) (acc yq y k out : Int),
      acc = ∑ i ∈ Finset.range s.cfgN.toNat,
          (Bank.read s.b i).toInt * (if i = 0 then smp.toInt else (Bank.read s.x (i - 1)).toInt) * 2 ^ 24
        - ∑ i ∈ Finset.Ico 1 s.cfgN.toNat, (Bank.read s.a i).toInt * (Bank.read s.y (i - 1)).toInt ∧
      yq = ⌊(acc : ℚ) / 2 ^ 24⌋ ∧
      y = max (-2 ^ 47) (min (2 ^ 47 - 1) yq) ∧
      k = Int.tdiv y (2 ^ 24) ∧
      out = (match s.ctrl.ovf with
        | .sat => max (-32768) (min 32767 k)
        | .wrap => (k + 32768) % 65536 - 32768) ∧
      OkWith (.flt smp) s (BitVec.ofInt 64 out) t ∧
      (∀ i < 64, Bank.read t.x i =
        if i = 0 then smp else if i < s.cfgN.toNat then Bank.read s.x (i - 1) else Bank.read s.x i) ∧
      (Bank.read t.y 0).toInt = y ∧
      (∀ i, 1 ≤ i → i < 64 → Bank.read t.y i =
        if i < s.cfgN.toNat then Bank.read s.y (i - 1) else Bank.read s.y i) ∧
      t.clip = (s.clip || decide (k < -32768 ∨ 32767 < k)) ∧
      t.ysat = (s.ysat || decide (yq < -2 ^ 47 ∨ 2 ^ 47 - 1 < yq)) ∧
      { t with x := s.x, y := s.y, clip := s.clip, ysat := s.ysat } = s) ∧
  (∀ (s : State) (smp : SampleWord), s.st ≠ .run → ErrWith (.flt smp) s 4) ∧
  (∀ (s : State) (smp : SampleWord), s.st = .run → s.ctrl.mode = .synth → ErrWith (.flt smp) s 5)

/-- R222, R7: the exact sum fits an accumulator of 87 bits, for every content of the files and every order to 64. -/
def Obligations.FilterSumFitsTheAccumulator : Prop :=
  ∀ (len : Nat) (b a : Bank 32) (x : Bank 16) (y : Bank 48), len ≤ 64 →
    -2 ^ 85 < filterSum len b a x y ∧ filterSum len b a x y < 2 ^ 85 ∧
    (2 : Int) ^ 85 ≤ 2 ^ (Config.accW - 1)

/-- R46, R203: FLT never reads A[0]: the response, and all the state but A itself, are the same whatever A[0] holds. -/
def Obligations.FeedbackIgnoresTheFirstCoefficient : Prop :=
  ∀ (s t : State) (smp : SampleWord) (v : QWord), exec (.flt smp) s = .next t →
    exec (.flt smp) { s with a := Bank.write s.a 0 v } = .next { t with a := Bank.write s.a 0 v }

/-- R212: after k FLTs the input history holds the most recent samples, newest first, then what it held before; the
output history holds the most recent `Y[0]` values likewise; entries from N on are untouched. -/
def Obligations.HistoriesHoldTheMostRecentValues : Prop :=
  ∀ (vs : List SampleWord) (s : State), s.st = .run → s.ctrl.mode = .filter →
    1 ≤ s.cfgN.toNat → s.cfgN.toNat ≤ 64 →
    ∃ t, filterTicks vs s = .next t ∧
      (∀ j < s.cfgN.toNat,
        (j < vs.length → vs[vs.length - 1 - j]? = some (Bank.read t.x j) ∧
          ∃ u, filterTicks (vs.take (vs.length - j)) s = .next u ∧ Bank.read t.y j = Bank.read u.y 0) ∧
        (vs.length ≤ j → Bank.read t.x j = Bank.read s.x (j - vs.length) ∧
          Bank.read t.y j = Bank.read s.y (j - vs.length))) ∧
      (∀ j, s.cfgN.toNat ≤ j → j < 64 → Bank.read t.x j = Bank.read s.x j ∧ Bank.read t.y j = Bank.read s.y j)

/-- R224: with `N = 1` and `B[0]` = 1.0, every input sample is returned unchanged and CLIP is never set, under both
policies. -/
def Obligations.IdentityFilterReturnsItsInput : Prop :=
  ∀ (s t : State) (smp : SampleWord), s.st = .run → s.ctrl.mode = .filter → s.cfgN = 1 →
    Bank.read s.b 0 = 0x01000000 → exec (.flt smp) s = .next t →
    t.responses = s.responses ++ [⟨0, smp.signExtend 64⟩] ∧ t.clip = s.clip ∧ t.ysat = s.ysat ∧
      (Bank.read t.y 0).toInt = smp.toInt * 2 ^ 24

/-! ### Conversion -/

/-- R240, R241: `convert` truncates toward zero, then saturates or keeps the low 16 bits; the result is always
a 16-bit sample; CLIP is set exactly where the truncated integer is outside the range. -/
def Obligations.ConvertTruncatesThenSaturatesOrWraps : Prop :=
  ∀ v : Int,
    truncRaw v = Int.tdiv v (2 ^ 24) ∧ truncRaw v = v.sign * (|v| / 2 ^ 24) ∧
    convertSample .sat v = max (-32768) (min 32767 (Int.tdiv v (2 ^ 24))) ∧
    convertSample .wrap v = (Int.tdiv v (2 ^ 24) + 32768) % 65536 - 32768 ∧
    (∀ ovf, -32768 ≤ convertSample ovf v ∧ convertSample ovf v ≤ 32767) ∧
    (convertClips v = true ↔ Int.tdiv v (2 ^ 24) < -32768 ∨ 32767 < Int.tdiv v (2 ^ 24))

/-- R246: the five laws of `convert`. -/
def Obligations.ConvertLaws : Prop :=
  (∀ (ovf : Ovf) (k : Int), -32768 ≤ k → k ≤ 32767 →
    convertSample ovf (k * 2 ^ 24) = k ∧ convertClips (k * 2 ^ 24) = false) ∧
  (∀ v v' : Int, v ≤ v' → convertSample .sat v ≤ convertSample .sat v') ∧
  (∀ (ovf : Ovf) (v : Int), -32767 ≤ Int.tdiv v (2 ^ 24) → Int.tdiv v (2 ^ 24) ≤ 32767 →
    convertSample ovf v = convertSample ovf (-v) * -1) ∧
  (∀ v : Int, (convertSample .sat v = -32768 ↔ v ≤ -32768 * 2 ^ 24) ∧
    (convertSample .sat v = 32767 ↔ 32767 * 2 ^ 24 ≤ v)) ∧
  (∀ (ovf : Ovf) (v : Int), -2 ^ 24 < v → v < 2 ^ 24 → convertSample ovf v = 0)

/-- R244: `ystore` clamps to 48 bits whatever CTRL.OVF holds, sets YSAT exactly where it clamped, and the stored
pattern reads back as the clamped value. -/
def Obligations.YStoreAlwaysSaturates : Prop :=
  ∀ yq : Int,
    yStore yq = max (-2 ^ 47) (min (2 ^ 47 - 1) yq) ∧
    (yStoreSaturates yq = true ↔ yStore yq ≠ yq) ∧
    (yStoreSaturates yq = true ↔ yq < -2 ^ 47 ∨ 2 ^ 47 - 1 < yq) ∧
    (bitsOf 48 (yStore yq)).toInt = yStore yq

/-! ### Whole-machine rules -/

/-- R262 (and the precision of R264): a command or word that ends with a code 1 to 6 sets CERR and CCODE to it, responds with data 0, and
changes nothing else; one that ends with code 7 sets FCODE and ST, responds with the fault code, and changes nothing
else, CERR and CCODE included. -/
def Obligations.ErrorsArePrecise : Prop :=
  ∀ (cw : CmdWord) (s t : State) (c : Code) (d : RespData), performWord cw s = .next t →
    t.responses = s.responses ++ [⟨c, d⟩] →
    (1 ≤ c.toNat → c.toNat ≤ 6 →
      t = { s with cerr := true, ccode := c, responses := s.responses ++ [⟨c, 0⟩] }) ∧
    (c.toNat = 7 → ∃ fc : Code, 1 ≤ fc.toNat ∧ fc.toNat ≤ 4 ∧
      t = { s with st := .fault, fcode := fc, responses := s.responses ++ [⟨7, fc.setWidth 64⟩] })

/-- R263: the response code of every word in every operating state: ILLEGAL where it does not decode, else the one the
legality table gives the command, with its order of priority. -/
def Obligations.ResponseCodeFollowsTheLegalityTable : Prop :=
  ∀ (cw : CmdWord) (s t : State), performWord cw s = .next t →
    ∃ d, t.responses = s.responses ++
      [⟨match decode cw with
        | .error _ => 1
        | .ok i => legalityCode i s, d⟩]

/-- R52: in RUN and FAULT the configuration, the table and the coefficients are immutable, and every command that
would write them fails with BAD_STATE; in RUN only the listed elements change, each by its own commands; in FAULT only
CERR, CCODE and the W1C clears change. -/
def Obligations.ConfigurationIsImmutableAfterStart : Prop :=
  (∀ (i : Instr) (s t : State), exec i s = .next t → s.st ≠ .config →
    (t.ctrl = s.ctrl ∧ t.cfgFs = s.cfgFs ∧ t.cfgF = s.cfgF ∧ t.cfgT = s.cfgT ∧ t.cfgN = s.cfgN ∧
      t.tbl = s.tbl ∧ t.b = s.b ∧ t.a = s.a) ∧
    (t.n ≠ s.n ∨ t.paIdx ≠ s.paIdx → s.st = .run ∧ i = .syn) ∧
    (t.x ≠ s.x ∨ t.y ≠ s.y ∨ (s.ysat = false ∧ t.ysat = true) → s.st = .run ∧ ∃ v, i = .flt v) ∧
    (s.clip = false ∧ t.clip = true → s.st = .run ∧ (i = .syn ∨ ∃ v, i = .flt v)) ∧
    ((s.clip = true ∧ t.clip = false) ∨ (s.ysat = true ∧ t.ysat = false) ∨ (s.cerr = true ∧ t.cerr = false) →
      ∃ v, i = .wrreg 0x003 v) ∧
    (t.cerr ≠ s.cerr ∨ t.ccode ≠ s.ccode → (∃ v, i = .wrreg 0x003 v) ∨
      (t.cerr = true ∧ t.ccode ≠ 0 ∧ t.responses = s.responses ++ [⟨t.ccode, 0⟩])) ∧
    t.st = s.st ∧ t.fcode = s.fcode) ∧
  (∀ (s : State) (idx : Index) (v : RegWord), s.st ≠ .config →
    ErrWith (.wrtbl idx v) s 4 ∧
    (idx.toNat < 64 → ErrWith (.wrcb idx v) s 4 ∧ ErrWith (.wrca idx v) s 4) ∧
    (idx.toNat ∈ [2, 4, 5, 6, 7] → ErrWith (.wrreg idx v) s 4))

/-- Which command may change which element (R30, R33, R37 to R48; CERR and CCODE by an error or WRREG STATUS, R262,
R124): every element a command is not named for is unchanged by it, in every state. -/
def Obligations.EveryElementChangesByItsOwnCommandsOnly : Prop :=
  ∀ (i : Instr) (s t : State), exec i s = .next t →
    (t.st ≠ s.st ∨ t.fcode ≠ s.fcode → i = .start) ∧
    (t.ctrl ≠ s.ctrl → ∃ v, i = .wrreg 0x002 v) ∧
    (t.cfgFs ≠ s.cfgFs → ∃ v, i = .wrreg 0x004 v) ∧
    (t.cfgF ≠ s.cfgF → ∃ v, i = .wrreg 0x005 v) ∧
    (t.cfgT ≠ s.cfgT → ∃ v, i = .wrreg 0x006 v) ∧
    (t.cfgN ≠ s.cfgN → ∃ v, i = .wrreg 0x007 v) ∧
    (t.n ≠ s.n ∨ t.paIdx ≠ s.paIdx → i = .syn) ∧
    (∀ j, Memory.read t.tbl j ≠ Memory.read s.tbl j → ∃ idx v, i = .wrtbl idx v ∧ j = idx.toNat) ∧
    (∀ j, Bank.read t.b j ≠ Bank.read s.b j → ∃ idx v, i = .wrcb idx v ∧ j = idx.toNat) ∧
    (∀ j, Bank.read t.a j ≠ Bank.read s.a j → ∃ idx v, i = .wrca idx v ∧ j = idx.toNat) ∧
    (t.x ≠ s.x ∨ t.y ≠ s.y → ∃ v, i = .flt v) ∧
    (t.clip ≠ s.clip → i = .syn ∨ (∃ v, i = .flt v) ∨ ∃ v, i = .wrreg 0x003 v) ∧
    (t.ysat ≠ s.ysat → (∃ v, i = .flt v) ∨ ∃ v, i = .wrreg 0x003 v) ∧
    (t.cerr ≠ s.cerr ∨ t.ccode ≠ s.ccode → (∃ v, i = .wrreg 0x003 v) ∨
      (t.cerr = true ∧ t.responses = s.responses ++ [⟨t.ccode, 0⟩])) ∧
    t.inputs = s.inputs

/-- R76: a read that succeeds changes nothing, so its repetition answers the same; a repeated successful write leaves
the same state; a successful SYN or FLT advances `n` or the histories, and neither is idempotent. -/
def Obligations.ReadsHaveNoSideEffectAndWritesAreIdempotent : Prop :=
  (∀ (i : Instr) (s t : State) (d : RespData),
    (∃ idx, i = .rdreg idx ∨ i = .rdtbl idx ∨ i = .rdcb idx ∨ i = .rdca idx ∨ i = .rdhx idx ∨ i = .rdhy idx) →
    exec i s = .next t → t.responses = s.responses ++ [⟨0, d⟩] →
    SameBlock s t ∧ OkWith i { s with responses := t.responses } d { s with responses := t.responses }) ∧
  (∀ (i : Instr) (s t : State) (d : RespData),
    (∃ idx v, i = .wrreg idx v ∨ i = .wrtbl idx v ∨ i = .wrcb idx v ∨ i = .wrca idx v) →
    exec i s = .next t → t.responses = s.responses ++ [⟨0, d⟩] →
    ∃ u, exec i t = .next u ∧ SameBlock t u) ∧
  (∀ (s t : State) (d : RespData), exec .syn s = .next t → t.responses = s.responses ++ [⟨0, d⟩] →
    t.n = s.n + 1 ∧ t.n ≠ s.n) ∧
  (∀ (s t : State) (smp : SampleWord) (d : RespData), exec (.flt smp) s = .next t →
    t.responses = s.responses ++ [⟨0, d⟩] → Bank.read t.x 0 = smp ∧
      ∀ i, 1 ≤ i → i < s.cfgN.toNat →
        Bank.read t.x i = Bank.read s.x (i - 1) ∧ Bank.read t.y i = Bank.read s.y (i - 1)) ∧
  (∃ (s t u : State) (smp : SampleWord), exec (.flt smp) s = .next t ∧ exec (.flt smp) t = .next u ∧ ¬SameBlock t u)

/-- R49: no command reads a flag to decide what it computes: with other CLIP, YSAT, CERR and CCODE, every command but
RDREG of STATUS answers the same response and leaves the same state but for those flags. -/
def Obligations.FlagsDoNotAffectComputation : Prop :=
  ∀ (i : Instr) (s t : State) (clip ysat cerr : Bool) (ccode : Code), i ≠ .rdreg 0x003 → exec i s = .next t →
    ∃ t', exec i { s with clip := clip, ysat := ysat, cerr := cerr, ccode := ccode } = .next t' ∧
      { t' with clip := t.clip, ysat := t.ysat, cerr := t.cerr, ccode := t.ccode } = t

/-- R51: table entries from T on, and coefficient and history entries from N on, affect no output: SYN and FLT answer
the same where two states differ in those entries only. -/
def Obligations.EntriesBeyondTheLengthsAffectNoOutput : Prop :=
  (∀ (s t : State) (tbl : Memory), (∀ i < s.cfgT.toNat, Memory.read tbl i = Memory.read s.tbl i) →
    exec .syn s = .next t → exec .syn { s with tbl := tbl } = .next { t with tbl := tbl }) ∧
  (∀ (s t : State) (smp : SampleWord) (b a : Bank 32) (x : Bank 16) (y : Bank 48), 1 ≤ s.cfgN.toNat →
    (∀ i < s.cfgN.toNat, Bank.read b i = Bank.read s.b i ∧ Bank.read a i = Bank.read s.a i ∧
      Bank.read x i = Bank.read s.x i ∧ Bank.read y i = Bank.read s.y i) →
    exec (.flt smp) s = .next t →
    ∃ t', exec (.flt smp) { s with b := b, a := a, x := x, y := y } = .next t' ∧ t'.responses = t.responses ∧
      t'.clip = t.clip ∧ t'.ysat = t.ysat ∧
      ∀ i < s.cfgN.toNat, Bank.read t'.x i = Bank.read t.x i ∧ Bank.read t'.y i = Bank.read t.y i)

/-! ### Invariants -/

/-- The reset state, with anything the host may do after it, meets the invariant. -/
def Obligations.ResetMeetsTheInvariant : Prop :=
  ∀ events : List HostEvent, StateInv { State.reset with inputs := events }

/-- Every step keeps the invariant, from every state that meets it and for everything the host does. -/
def Obligations.EveryStepKeepsTheInvariant : Prop :=
  ∀ s t : State, StateInv s → step s = .next t → StateInv t

/-- R245 "no division by zero is reachable", R173, R260: from every state that meets the invariant a step answers a
next state; the machine never stops. -/
def Obligations.MachineNeverStops : Prop :=
  ∀ s : State, StateInv s → ∃ t, step s = .next t

/-- R260, R268: in RUN, with the tick of the active engine, the response code is OK: a tick always returns a sample,
whether or not it clips or saturates. -/
def Obligations.ActiveTickAlwaysReturnsASample : Prop :=
  ∀ (s : State) (i : Instr), StateInv s → s.st = .run → ActiveTick s i →
    ∃ (t : State) (r : Response), exec i s = .next t ∧ t.responses = s.responses ++ [r] ∧ r.rcode = 0 ∧
      r.rdata = BitVec.ofInt 64 r.sample

/-- R311, R173: in every state of every run from reset, whatever the host does, the machine can step, an index once
used is inside the table, and the histories beyond N are 0. -/
def Obligations.EveryRunStaysSafe : Prop :=
  ∀ s : State, Reachable s →
    (∃ t, step s = .next t) ∧
    (s.st = .run → s.ctrl.mode = .synth → s.paIdx.toNat < s.cfgT.toNat) ∧
    (s.st = .run → s.ctrl.mode = .filter → ∀ i, s.cfgN.toNat ≤ i → i < 64 →
      Bank.read s.x i = 0 ∧ Bank.read s.y i = 0)

/-- The model's own (log 5): a table row's word placed by `withFetchWord` is what the very next step performs, and the
host's other events stay. -/
def Obligations.PlacedWordIsPerformedNext : Prop :=
  ∀ (s : State) (w : Nat) (i : Instr), decodeTableWord 64 w = some i → step (s.withFetchWord 64 w) = exec i s

/-- R305: the block does not check that the table or the coefficients were loaded: with a zero table (below T) SYN
produces 0, and with zero coefficients (below N) FLT produces 0 whatever the histories hold, and no flag is set. -/
def Obligations.UnloadedFilesProduceZero : Prop :=
  (∀ s : State, StateInv s → s.st = .run → s.ctrl.mode = .synth → TableLoaded s (fun _ => 0) →
    ∃ t, OkWith .syn s 0 t ∧ t.clip = s.clip ∧ t.ysat = s.ysat) ∧
  (∀ (s : State) (smp : SampleWord), StateInv s → s.st = .run → s.ctrl.mode = .filter →
    CoefficientsLoaded s (fun _ => 0) (fun _ => 0) →
    ∃ t, OkWith (.flt smp) s 0 t ∧ Bank.read t.y 0 = 0 ∧ t.clip = s.clip ∧ t.ysat = s.ysat)
end

