-- ==== Sys2Proof/Laws/Bank.lean ====
section
/-! SUPPORT. The 64-entry files: read after write, and what the shift loop of R210 leaves at each index. -/

namespace Sys2Proof.Machine

variable {w : Nat}

@[simp] theorem Bank.read_replicate (i : Nat) : Bank.read (Vector.replicate 64 (0 : BitVec w)) i = 0 := by
  unfold Bank.read
  rw [Vector.getElem?_replicate]
  split <;> rfl

theorem Bank.read_write_same (f : Bank w) (i : Nat) (v : BitVec w) (h : i < 64) :
    Bank.read (Bank.write f i v) i = v := by
  simp [Bank.read, Bank.write, h]

theorem Bank.read_write_other (f : Bank w) (i j : Nat) (v : BitVec w) (h : j ≠ i) :
    Bank.read (Bank.write f i v) j = Bank.read f j := by
  simp [Bank.read, Bank.write, Ne.symm h]

/-- A repeated write of one entry leaves the file it left (R76). -/
theorem Bank.write_write_same (f : Bank w) (i : Nat) (v : BitVec w) :
    Bank.write (Bank.write f i v) i v = Bank.write f i v := by
  ext1 j hj
  simp only [Bank.write, Vector.getElem_setIfInBounds]
  split <;> rfl

/-- A file is what its 64 entries read as. -/
theorem Bank.ext_read (f g : Bank w) (h : ∀ i < 64, Bank.read f i = Bank.read g i) : f = g := by
  ext1 i hi
  simpa [Bank.read, hi] using h i hi

/-- After `for i from k down to 1: buf[i] <- buf[i-1]`, entries 1..k hold their lower neighbours' old values. -/
theorem shiftDown_read (k : Nat) (f : Bank w) (i : Nat) (hk : k < 64) :
    Bank.read (shiftDown k f) i = if 1 ≤ i ∧ i ≤ k then Bank.read f (i - 1) else Bank.read f i := by
  induction k generalizing f with
  | zero => rw [if_neg (by omega)]; rfl
  | succ k ih =>
    unfold shiftDown
    rw [ih _ (by omega)]
    by_cases h1 : i = k + 1
    · subst h1
      rw [if_neg (by omega), if_pos (by omega), Bank.read_write_same _ _ _ hk, Nat.add_sub_cancel]
    · by_cases h2 : 1 ≤ i ∧ i ≤ k
      · rw [if_pos h2, if_pos (by omega), Bank.read_write_other _ _ _ _ (by omega)]
      · rw [if_neg h2, if_neg (by omega), Bank.read_write_other _ _ _ _ h1]

end Sys2Proof.Machine
end

