-- ==== Sys2Proof/Laws/Encoding.lean ====
section
/-! SUPPORT. The fields of a word and the word of its fields, bit by bit (R90), and the operand maps. -/

namespace Sys2Proof

@[simp] theorem immField_wordOf (f : Fields) : immField (wordOf f) = f.imm := by
  apply BitVec.eq_of_getLsbD_eq
  intro i hi
  simp only [immField, wordOf, BitVec.getLsbD_extractLsb', BitVec.getLsbD_append]
  simp [hi, show ¬(32 + i < 16) by omega, show ¬(32 + i - 16 < 12) by omega, show ¬(32 + i - 16 - 12 < 4) by omega,
    show 32 + i - 16 - 12 - 4 = i by omega]

@[simp] theorem opField_wordOf (f : Fields) : opField (wordOf f) = f.op := by
  apply BitVec.eq_of_getLsbD_eq
  intro i hi
  simp only [opField, wordOf, BitVec.getLsbD_extractLsb', BitVec.getLsbD_append]
  simp [hi, show ¬(28 + i < 16) by omega, show ¬(28 + i - 16 < 12) by omega,
    show 28 + i - 16 - 12 = i by omega]

@[simp] theorem idxField_wordOf (f : Fields) : idxField (wordOf f) = f.idx := by
  apply BitVec.eq_of_getLsbD_eq
  intro i hi
  simp only [idxField, wordOf, BitVec.getLsbD_extractLsb', BitVec.getLsbD_append]
  simp [hi, show ¬(16 + i < 16) by omega]

@[simp] theorem smpField_wordOf (f : Fields) : smpField (wordOf f) = f.smp := by
  apply BitVec.eq_of_getLsbD_eq
  intro i hi
  simp only [smpField, wordOf, BitVec.getLsbD_extractLsb', BitVec.getLsbD_append]
  simp [hi]

/-- A word is its four fields (R90). -/
theorem wordOf_fieldsOf (cw : CmdWord) : wordOf (fieldsOf cw) = cw := by
  apply BitVec.eq_of_getLsbD_eq
  intro i hi
  simp only [wordOf, fieldsOf, immField, opField, idxField, smpField, BitVec.getLsbD_append,
    BitVec.getLsbD_extractLsb']
  by_cases h1 : i < 16
  · simp [h1]
  · by_cases h2 : i - 16 < 12
    · simp [h1, h2, show 16 + (i - 16) = i by omega]
    · by_cases h3 : i - 16 - 12 < 4
      · simp [h1, h2, h3, show 28 + (i - 16 - 12) = i by omega]
      · simp [h1, h2, h3, show 32 + (i - 16 - 12 - 4) = i by omega, show i - 16 - 12 - 4 < 32 by omega]

/-- A masked word, field by field. -/
theorem wordOf_and (f g : Fields) :
    wordOf f &&& wordOf g = wordOf ⟨f.imm &&& g.imm, f.op &&& g.op, f.idx &&& g.idx, f.smp &&& g.smp⟩ := by
  apply BitVec.eq_of_getLsbD_eq
  intro i hi
  simp only [wordOf, BitVec.getLsbD_append, BitVec.getLsbD_and]
  split
  · rfl
  · split
    · rfl
    · split <;> rfl

theorem wordOf_inj (f g : Fields) (h : wordOf f = wordOf g) : f = g := by
  have h1 := congrArg immField h
  have h2 := congrArg opField h
  have h3 := congrArg idxField h
  have h4 := congrArg smpField h
  simp only [immField_wordOf, opField_wordOf, idxField_wordOf, smpField_wordOf] at h1 h2 h3 h4
  cases f; cases g; simp_all

theorem wordOf_eq_zero (f : Fields) : wordOf f = 0 ↔ f = ⟨0, 0, 0, 0⟩ :=
  ⟨fun h => wordOf_inj f ⟨0, 0, 0, 0⟩ (h.trans (by decide)), fun h => by subst h; decide⟩

/-- A format's reserved fields are clear: IMM unless W, IDX unless A or W, SMP unless S (R92). -/
def Format.reservedClear (fmt : Format) (f : Fields) : Prop :=
  match fmt with
  | .z => f.imm = 0 ∧ f.idx = 0 ∧ f.smp = 0
  | .a => f.imm = 0 ∧ f.smp = 0
  | .w => f.smp = 0
  | .s => f.imm = 0 ∧ f.idx = 0

/-- R94's test of a word against the reserved mask is R92's test of the reserved fields. -/
theorem reservedMask_eq_zero_iff (fmt : Format) (f : Fields) :
    wordOf f &&& fmt.reservedMask = 0 ↔ fmt.reservedClear f := by
  have one32 : ∀ v : BitVec 32, v &&& 0xFFFFFFFF#32 = v := fun v => BitVec.and_allOnes
  have one12 : ∀ v : BitVec 12, v &&& 0xFFF#12 = v := fun v => BitVec.and_allOnes
  have one16 : ∀ v : BitVec 16, v &&& 0xFFFF#16 = v := fun v => BitVec.and_allOnes
  cases fmt
  · rw [show Format.reservedMask .z = wordOf ⟨0xFFFFFFFF, 0, 0xFFF, 0xFFFF⟩ by decide, wordOf_and, wordOf_eq_zero]
    simp [Format.reservedClear, one32, one12, one16]
  · rw [show Format.reservedMask .a = wordOf ⟨0xFFFFFFFF, 0, 0, 0xFFFF⟩ by decide, wordOf_and, wordOf_eq_zero]
    simp [Format.reservedClear, one32, one16]
  · rw [show Format.reservedMask .w = wordOf ⟨0, 0, 0, 0xFFFF⟩ by decide, wordOf_and, wordOf_eq_zero]
    simp [Format.reservedClear, one16]
  · rw [show Format.reservedMask .s = wordOf ⟨0xFFFFFFFF, 0, 0xFFF, 0⟩ by decide, wordOf_and, wordOf_eq_zero]
    simp [Format.reservedClear, one32, one12]

/-- What decoding answers, said on the word's fields. -/
theorem decode_wordOf (f : Fields) (fmt : Format) (i : Instr) (hf : formatOf f.op = some fmt)
    (hi : instrOf f = some i) (hr : fmt.reservedClear f) : decode (wordOf f) = .ok i := by
  have h : fieldsOf (wordOf f) = f := by simp [fieldsOf]
  rw [decode, opField_wordOf, h, hf, hi]
  simp only
  rw [if_pos ((reservedMask_eq_zero_iff fmt f).2 hr)]

/-- Where decoding answers a command: the word's fields name it, and its format's reserved fields are clear. -/
theorem decode_ok_fields (f : Fields) (i : Instr) (h : decode (wordOf f) = .ok i) :
    ∃ fmt, formatOf f.op = some fmt ∧ instrOf f = some i ∧ fmt.reservedClear f := by
  have hf : fieldsOf (wordOf f) = f := by simp [fieldsOf]
  rw [decode, opField_wordOf, hf] at h
  split at h
  · next fmt j h1 h2 =>
    split at h
    · next hr =>
      cases h
      exact ⟨fmt, h1, h2, (reservedMask_eq_zero_iff fmt f).1 hr⟩
    · cases h
  · cases h

namespace Machine

theorem registerAt_some (a : Index) (r : RegName) (h : registerAt a = some r) : a.toNat = r.addr := by
  unfold registerAt at h
  split at h <;> cases h <;> assumption

theorem registerAt_none (a : Index) : registerAt a = none ↔ 0x00A < a.toNat := by
  unfold registerAt
  split <;> (simp_all; try omega)

theorem registerAt_addr (a : Index) (r : RegName) (h : a.toNat = r.addr) : registerAt a = some r := by
  unfold registerAt
  rw [h]
  cases r <;> rfl

end Machine

end Sys2Proof
end

