-- ==== Sys2Proof/Laws/State.lean ====
section
/-! SUPPORT. One lemma per field per update of State: what each shared update leaves in each field. -/

namespace Sys2Proof.Machine

@[simp] theorem addResponse_st (c : RCode) (d : RespData) (s : State) : (addResponse c d s).st = s.st := rfl
@[simp] theorem addResponse_ctrl (c : RCode) (d : RespData) (s : State) : (addResponse c d s).ctrl = s.ctrl := rfl
@[simp] theorem addResponse_clip (c : RCode) (d : RespData) (s : State) : (addResponse c d s).clip = s.clip := rfl
@[simp] theorem addResponse_ysat (c : RCode) (d : RespData) (s : State) : (addResponse c d s).ysat = s.ysat := rfl
@[simp] theorem addResponse_cerr (c : RCode) (d : RespData) (s : State) : (addResponse c d s).cerr = s.cerr := rfl
@[simp] theorem addResponse_ccode (c : RCode) (d : RespData) (s : State) : (addResponse c d s).ccode = s.ccode := rfl
@[simp] theorem addResponse_fcode (c : RCode) (d : RespData) (s : State) : (addResponse c d s).fcode = s.fcode := rfl
@[simp] theorem addResponse_cfgFs (c : RCode) (d : RespData) (s : State) : (addResponse c d s).cfgFs = s.cfgFs := rfl
@[simp] theorem addResponse_cfgF (c : RCode) (d : RespData) (s : State) : (addResponse c d s).cfgF = s.cfgF := rfl
@[simp] theorem addResponse_cfgT (c : RCode) (d : RespData) (s : State) : (addResponse c d s).cfgT = s.cfgT := rfl
@[simp] theorem addResponse_cfgN (c : RCode) (d : RespData) (s : State) : (addResponse c d s).cfgN = s.cfgN := rfl
@[simp] theorem addResponse_n (c : RCode) (d : RespData) (s : State) : (addResponse c d s).n = s.n := rfl
@[simp] theorem addResponse_paIdx (c : RCode) (d : RespData) (s : State) : (addResponse c d s).paIdx = s.paIdx := rfl
@[simp] theorem addResponse_tbl (c : RCode) (d : RespData) (s : State) : (addResponse c d s).tbl = s.tbl := rfl
@[simp] theorem addResponse_b (c : RCode) (d : RespData) (s : State) : (addResponse c d s).b = s.b := rfl
@[simp] theorem addResponse_a (c : RCode) (d : RespData) (s : State) : (addResponse c d s).a = s.a := rfl
@[simp] theorem addResponse_x (c : RCode) (d : RespData) (s : State) : (addResponse c d s).x = s.x := rfl
@[simp] theorem addResponse_y (c : RCode) (d : RespData) (s : State) : (addResponse c d s).y = s.y := rfl
@[simp] theorem addResponse_inputs (c : RCode) (d : RespData) (s : State) : (addResponse c d s).inputs = s.inputs := rfl
@[simp] theorem addResponse_responses (c : RCode) (d : RespData) (s : State) : (addResponse c d s).responses = s.responses ++ [⟨c.bits, d⟩] := rfl

@[simp] theorem recordError_st (c : RCode) (s : State) : (recordError c s).st = s.st := rfl
@[simp] theorem recordError_ctrl (c : RCode) (s : State) : (recordError c s).ctrl = s.ctrl := rfl
@[simp] theorem recordError_clip (c : RCode) (s : State) : (recordError c s).clip = s.clip := rfl
@[simp] theorem recordError_ysat (c : RCode) (s : State) : (recordError c s).ysat = s.ysat := rfl
@[simp] theorem recordError_cerr (c : RCode) (s : State) : (recordError c s).cerr = true := rfl
@[simp] theorem recordError_ccode (c : RCode) (s : State) : (recordError c s).ccode = c.bits := rfl
@[simp] theorem recordError_fcode (c : RCode) (s : State) : (recordError c s).fcode = s.fcode := rfl
@[simp] theorem recordError_cfgFs (c : RCode) (s : State) : (recordError c s).cfgFs = s.cfgFs := rfl
@[simp] theorem recordError_cfgF (c : RCode) (s : State) : (recordError c s).cfgF = s.cfgF := rfl
@[simp] theorem recordError_cfgT (c : RCode) (s : State) : (recordError c s).cfgT = s.cfgT := rfl
@[simp] theorem recordError_cfgN (c : RCode) (s : State) : (recordError c s).cfgN = s.cfgN := rfl
@[simp] theorem recordError_n (c : RCode) (s : State) : (recordError c s).n = s.n := rfl
@[simp] theorem recordError_paIdx (c : RCode) (s : State) : (recordError c s).paIdx = s.paIdx := rfl
@[simp] theorem recordError_tbl (c : RCode) (s : State) : (recordError c s).tbl = s.tbl := rfl
@[simp] theorem recordError_b (c : RCode) (s : State) : (recordError c s).b = s.b := rfl
@[simp] theorem recordError_a (c : RCode) (s : State) : (recordError c s).a = s.a := rfl
@[simp] theorem recordError_x (c : RCode) (s : State) : (recordError c s).x = s.x := rfl
@[simp] theorem recordError_y (c : RCode) (s : State) : (recordError c s).y = s.y := rfl
@[simp] theorem recordError_inputs (c : RCode) (s : State) : (recordError c s).inputs = s.inputs := rfl
@[simp] theorem recordError_responses (c : RCode) (s : State) : (recordError c s).responses = s.responses := rfl

@[simp] theorem noteClip_st (o : Bool) (s : State) : (noteClip o s).st = s.st := rfl
@[simp] theorem noteClip_ctrl (o : Bool) (s : State) : (noteClip o s).ctrl = s.ctrl := rfl
@[simp] theorem noteClip_clip (o : Bool) (s : State) : (noteClip o s).clip = (s.clip || o) := rfl
@[simp] theorem noteClip_ysat (o : Bool) (s : State) : (noteClip o s).ysat = s.ysat := rfl
@[simp] theorem noteClip_cerr (o : Bool) (s : State) : (noteClip o s).cerr = s.cerr := rfl
@[simp] theorem noteClip_ccode (o : Bool) (s : State) : (noteClip o s).ccode = s.ccode := rfl
@[simp] theorem noteClip_fcode (o : Bool) (s : State) : (noteClip o s).fcode = s.fcode := rfl
@[simp] theorem noteClip_cfgFs (o : Bool) (s : State) : (noteClip o s).cfgFs = s.cfgFs := rfl
@[simp] theorem noteClip_cfgF (o : Bool) (s : State) : (noteClip o s).cfgF = s.cfgF := rfl
@[simp] theorem noteClip_cfgT (o : Bool) (s : State) : (noteClip o s).cfgT = s.cfgT := rfl
@[simp] theorem noteClip_cfgN (o : Bool) (s : State) : (noteClip o s).cfgN = s.cfgN := rfl
@[simp] theorem noteClip_n (o : Bool) (s : State) : (noteClip o s).n = s.n := rfl
@[simp] theorem noteClip_paIdx (o : Bool) (s : State) : (noteClip o s).paIdx = s.paIdx := rfl
@[simp] theorem noteClip_tbl (o : Bool) (s : State) : (noteClip o s).tbl = s.tbl := rfl
@[simp] theorem noteClip_b (o : Bool) (s : State) : (noteClip o s).b = s.b := rfl
@[simp] theorem noteClip_a (o : Bool) (s : State) : (noteClip o s).a = s.a := rfl
@[simp] theorem noteClip_x (o : Bool) (s : State) : (noteClip o s).x = s.x := rfl
@[simp] theorem noteClip_y (o : Bool) (s : State) : (noteClip o s).y = s.y := rfl
@[simp] theorem noteClip_inputs (o : Bool) (s : State) : (noteClip o s).inputs = s.inputs := rfl
@[simp] theorem noteClip_responses (o : Bool) (s : State) : (noteClip o s).responses = s.responses := rfl

@[simp] theorem noteYsat_st (o : Bool) (s : State) : (noteYsat o s).st = s.st := rfl
@[simp] theorem noteYsat_ctrl (o : Bool) (s : State) : (noteYsat o s).ctrl = s.ctrl := rfl
@[simp] theorem noteYsat_clip (o : Bool) (s : State) : (noteYsat o s).clip = s.clip := rfl
@[simp] theorem noteYsat_ysat (o : Bool) (s : State) : (noteYsat o s).ysat = (s.ysat || o) := rfl
@[simp] theorem noteYsat_cerr (o : Bool) (s : State) : (noteYsat o s).cerr = s.cerr := rfl
@[simp] theorem noteYsat_ccode (o : Bool) (s : State) : (noteYsat o s).ccode = s.ccode := rfl
@[simp] theorem noteYsat_fcode (o : Bool) (s : State) : (noteYsat o s).fcode = s.fcode := rfl
@[simp] theorem noteYsat_cfgFs (o : Bool) (s : State) : (noteYsat o s).cfgFs = s.cfgFs := rfl
@[simp] theorem noteYsat_cfgF (o : Bool) (s : State) : (noteYsat o s).cfgF = s.cfgF := rfl
@[simp] theorem noteYsat_cfgT (o : Bool) (s : State) : (noteYsat o s).cfgT = s.cfgT := rfl
@[simp] theorem noteYsat_cfgN (o : Bool) (s : State) : (noteYsat o s).cfgN = s.cfgN := rfl
@[simp] theorem noteYsat_n (o : Bool) (s : State) : (noteYsat o s).n = s.n := rfl
@[simp] theorem noteYsat_paIdx (o : Bool) (s : State) : (noteYsat o s).paIdx = s.paIdx := rfl
@[simp] theorem noteYsat_tbl (o : Bool) (s : State) : (noteYsat o s).tbl = s.tbl := rfl
@[simp] theorem noteYsat_b (o : Bool) (s : State) : (noteYsat o s).b = s.b := rfl
@[simp] theorem noteYsat_a (o : Bool) (s : State) : (noteYsat o s).a = s.a := rfl
@[simp] theorem noteYsat_x (o : Bool) (s : State) : (noteYsat o s).x = s.x := rfl
@[simp] theorem noteYsat_y (o : Bool) (s : State) : (noteYsat o s).y = s.y := rfl
@[simp] theorem noteYsat_inputs (o : Bool) (s : State) : (noteYsat o s).inputs = s.inputs := rfl
@[simp] theorem noteYsat_responses (o : Bool) (s : State) : (noteYsat o s).responses = s.responses := rfl

@[simp] theorem clearStatus_st (v : RegWord) (s : State) : (clearStatus v s).st = s.st := rfl
@[simp] theorem clearStatus_ctrl (v : RegWord) (s : State) : (clearStatus v s).ctrl = s.ctrl := rfl
@[simp] theorem clearStatus_clip (v : RegWord) (s : State) : (clearStatus v s).clip = (s.clip && !v.getLsbD 2) := rfl
@[simp] theorem clearStatus_ysat (v : RegWord) (s : State) : (clearStatus v s).ysat = (s.ysat && !v.getLsbD 3) := rfl
@[simp] theorem clearStatus_cerr (v : RegWord) (s : State) : (clearStatus v s).cerr = (s.cerr && !v.getLsbD 4) := rfl
@[simp] theorem clearStatus_ccode (v : RegWord) (s : State) : (clearStatus v s).ccode = (if v.getLsbD 4 then 0 else s.ccode) := rfl
@[simp] theorem clearStatus_fcode (v : RegWord) (s : State) : (clearStatus v s).fcode = s.fcode := rfl
@[simp] theorem clearStatus_cfgFs (v : RegWord) (s : State) : (clearStatus v s).cfgFs = s.cfgFs := rfl
@[simp] theorem clearStatus_cfgF (v : RegWord) (s : State) : (clearStatus v s).cfgF = s.cfgF := rfl
@[simp] theorem clearStatus_cfgT (v : RegWord) (s : State) : (clearStatus v s).cfgT = s.cfgT := rfl
@[simp] theorem clearStatus_cfgN (v : RegWord) (s : State) : (clearStatus v s).cfgN = s.cfgN := rfl
@[simp] theorem clearStatus_n (v : RegWord) (s : State) : (clearStatus v s).n = s.n := rfl
@[simp] theorem clearStatus_paIdx (v : RegWord) (s : State) : (clearStatus v s).paIdx = s.paIdx := rfl
@[simp] theorem clearStatus_tbl (v : RegWord) (s : State) : (clearStatus v s).tbl = s.tbl := rfl
@[simp] theorem clearStatus_b (v : RegWord) (s : State) : (clearStatus v s).b = s.b := rfl
@[simp] theorem clearStatus_a (v : RegWord) (s : State) : (clearStatus v s).a = s.a := rfl
@[simp] theorem clearStatus_x (v : RegWord) (s : State) : (clearStatus v s).x = s.x := rfl
@[simp] theorem clearStatus_y (v : RegWord) (s : State) : (clearStatus v s).y = s.y := rfl
@[simp] theorem clearStatus_inputs (v : RegWord) (s : State) : (clearStatus v s).inputs = s.inputs := rfl
@[simp] theorem clearStatus_responses (v : RegWord) (s : State) : (clearStatus v s).responses = s.responses := rfl

@[simp] theorem acceptEvent_st (s : State) : (acceptEvent s).st = s.st := rfl
@[simp] theorem acceptEvent_ctrl (s : State) : (acceptEvent s).ctrl = s.ctrl := rfl
@[simp] theorem acceptEvent_clip (s : State) : (acceptEvent s).clip = s.clip := rfl
@[simp] theorem acceptEvent_ysat (s : State) : (acceptEvent s).ysat = s.ysat := rfl
@[simp] theorem acceptEvent_cerr (s : State) : (acceptEvent s).cerr = s.cerr := rfl
@[simp] theorem acceptEvent_ccode (s : State) : (acceptEvent s).ccode = s.ccode := rfl
@[simp] theorem acceptEvent_fcode (s : State) : (acceptEvent s).fcode = s.fcode := rfl
@[simp] theorem acceptEvent_cfgFs (s : State) : (acceptEvent s).cfgFs = s.cfgFs := rfl
@[simp] theorem acceptEvent_cfgF (s : State) : (acceptEvent s).cfgF = s.cfgF := rfl
@[simp] theorem acceptEvent_cfgT (s : State) : (acceptEvent s).cfgT = s.cfgT := rfl
@[simp] theorem acceptEvent_cfgN (s : State) : (acceptEvent s).cfgN = s.cfgN := rfl
@[simp] theorem acceptEvent_n (s : State) : (acceptEvent s).n = s.n := rfl
@[simp] theorem acceptEvent_paIdx (s : State) : (acceptEvent s).paIdx = s.paIdx := rfl
@[simp] theorem acceptEvent_tbl (s : State) : (acceptEvent s).tbl = s.tbl := rfl
@[simp] theorem acceptEvent_b (s : State) : (acceptEvent s).b = s.b := rfl
@[simp] theorem acceptEvent_a (s : State) : (acceptEvent s).a = s.a := rfl
@[simp] theorem acceptEvent_x (s : State) : (acceptEvent s).x = s.x := rfl
@[simp] theorem acceptEvent_y (s : State) : (acceptEvent s).y = s.y := rfl
@[simp] theorem acceptEvent_inputs (s : State) : (acceptEvent s).inputs = s.inputs.tail := rfl
@[simp] theorem acceptEvent_responses (s : State) : (acceptEvent s).responses = s.responses := rfl

@[simp] theorem advancePhase_st (idx : Nat) (s : State) : (advancePhase idx s).st = s.st := rfl
@[simp] theorem advancePhase_ctrl (idx : Nat) (s : State) : (advancePhase idx s).ctrl = s.ctrl := rfl
@[simp] theorem advancePhase_clip (idx : Nat) (s : State) : (advancePhase idx s).clip = s.clip := rfl
@[simp] theorem advancePhase_ysat (idx : Nat) (s : State) : (advancePhase idx s).ysat = s.ysat := rfl
@[simp] theorem advancePhase_cerr (idx : Nat) (s : State) : (advancePhase idx s).cerr = s.cerr := rfl
@[simp] theorem advancePhase_ccode (idx : Nat) (s : State) : (advancePhase idx s).ccode = s.ccode := rfl
@[simp] theorem advancePhase_fcode (idx : Nat) (s : State) : (advancePhase idx s).fcode = s.fcode := rfl
@[simp] theorem advancePhase_cfgFs (idx : Nat) (s : State) : (advancePhase idx s).cfgFs = s.cfgFs := rfl
@[simp] theorem advancePhase_cfgF (idx : Nat) (s : State) : (advancePhase idx s).cfgF = s.cfgF := rfl
@[simp] theorem advancePhase_cfgT (idx : Nat) (s : State) : (advancePhase idx s).cfgT = s.cfgT := rfl
@[simp] theorem advancePhase_cfgN (idx : Nat) (s : State) : (advancePhase idx s).cfgN = s.cfgN := rfl
@[simp] theorem advancePhase_n (idx : Nat) (s : State) : (advancePhase idx s).n = s.n + 1 := rfl
@[simp] theorem advancePhase_paIdx (idx : Nat) (s : State) : (advancePhase idx s).paIdx = BitVec.ofNat 12 idx := rfl
@[simp] theorem advancePhase_tbl (idx : Nat) (s : State) : (advancePhase idx s).tbl = s.tbl := rfl
@[simp] theorem advancePhase_b (idx : Nat) (s : State) : (advancePhase idx s).b = s.b := rfl
@[simp] theorem advancePhase_a (idx : Nat) (s : State) : (advancePhase idx s).a = s.a := rfl
@[simp] theorem advancePhase_x (idx : Nat) (s : State) : (advancePhase idx s).x = s.x := rfl
@[simp] theorem advancePhase_y (idx : Nat) (s : State) : (advancePhase idx s).y = s.y := rfl
@[simp] theorem advancePhase_inputs (idx : Nat) (s : State) : (advancePhase idx s).inputs = s.inputs := rfl
@[simp] theorem advancePhase_responses (idx : Nat) (s : State) : (advancePhase idx s).responses = s.responses := rfl

@[simp] theorem pushSample_st (v : SampleWord) (s : State) : (pushSample v s).st = s.st := rfl
@[simp] theorem pushSample_ctrl (v : SampleWord) (s : State) : (pushSample v s).ctrl = s.ctrl := rfl
@[simp] theorem pushSample_clip (v : SampleWord) (s : State) : (pushSample v s).clip = s.clip := rfl
@[simp] theorem pushSample_ysat (v : SampleWord) (s : State) : (pushSample v s).ysat = s.ysat := rfl
@[simp] theorem pushSample_cerr (v : SampleWord) (s : State) : (pushSample v s).cerr = s.cerr := rfl
@[simp] theorem pushSample_ccode (v : SampleWord) (s : State) : (pushSample v s).ccode = s.ccode := rfl
@[simp] theorem pushSample_fcode (v : SampleWord) (s : State) : (pushSample v s).fcode = s.fcode := rfl
@[simp] theorem pushSample_cfgFs (v : SampleWord) (s : State) : (pushSample v s).cfgFs = s.cfgFs := rfl
@[simp] theorem pushSample_cfgF (v : SampleWord) (s : State) : (pushSample v s).cfgF = s.cfgF := rfl
@[simp] theorem pushSample_cfgT (v : SampleWord) (s : State) : (pushSample v s).cfgT = s.cfgT := rfl
@[simp] theorem pushSample_cfgN (v : SampleWord) (s : State) : (pushSample v s).cfgN = s.cfgN := rfl
@[simp] theorem pushSample_n (v : SampleWord) (s : State) : (pushSample v s).n = s.n := rfl
@[simp] theorem pushSample_paIdx (v : SampleWord) (s : State) : (pushSample v s).paIdx = s.paIdx := rfl
@[simp] theorem pushSample_tbl (v : SampleWord) (s : State) : (pushSample v s).tbl = s.tbl := rfl
@[simp] theorem pushSample_b (v : SampleWord) (s : State) : (pushSample v s).b = s.b := rfl
@[simp] theorem pushSample_a (v : SampleWord) (s : State) : (pushSample v s).a = s.a := rfl
@[simp] theorem pushSample_x (v : SampleWord) (s : State) : (pushSample v s).x = pushHistory (order s) v s.x := rfl
@[simp] theorem pushSample_y (v : SampleWord) (s : State) : (pushSample v s).y = pushHistory (order s) 0 s.y := rfl
@[simp] theorem pushSample_inputs (v : SampleWord) (s : State) : (pushSample v s).inputs = s.inputs := rfl
@[simp] theorem pushSample_responses (v : SampleWord) (s : State) : (pushSample v s).responses = s.responses := rfl

@[simp] theorem storeOutput_st (s : State) : (storeOutput s).st = s.st := rfl
@[simp] theorem storeOutput_ctrl (s : State) : (storeOutput s).ctrl = s.ctrl := rfl
@[simp] theorem storeOutput_clip (s : State) : (storeOutput s).clip = s.clip := rfl
@[simp] theorem storeOutput_ysat (s : State) : (storeOutput s).ysat = (s.ysat || yStoreSaturates (filterQuotient s)) := rfl
@[simp] theorem storeOutput_cerr (s : State) : (storeOutput s).cerr = s.cerr := rfl
@[simp] theorem storeOutput_ccode (s : State) : (storeOutput s).ccode = s.ccode := rfl
@[simp] theorem storeOutput_fcode (s : State) : (storeOutput s).fcode = s.fcode := rfl
@[simp] theorem storeOutput_cfgFs (s : State) : (storeOutput s).cfgFs = s.cfgFs := rfl
@[simp] theorem storeOutput_cfgF (s : State) : (storeOutput s).cfgF = s.cfgF := rfl
@[simp] theorem storeOutput_cfgT (s : State) : (storeOutput s).cfgT = s.cfgT := rfl
@[simp] theorem storeOutput_cfgN (s : State) : (storeOutput s).cfgN = s.cfgN := rfl
@[simp] theorem storeOutput_n (s : State) : (storeOutput s).n = s.n := rfl
@[simp] theorem storeOutput_paIdx (s : State) : (storeOutput s).paIdx = s.paIdx := rfl
@[simp] theorem storeOutput_tbl (s : State) : (storeOutput s).tbl = s.tbl := rfl
@[simp] theorem storeOutput_b (s : State) : (storeOutput s).b = s.b := rfl
@[simp] theorem storeOutput_a (s : State) : (storeOutput s).a = s.a := rfl
@[simp] theorem storeOutput_x (s : State) : (storeOutput s).x = s.x := rfl
@[simp] theorem storeOutput_y (s : State) : (storeOutput s).y = Bank.write s.y 0 (bitsOf 48 (yStore (filterQuotient s))) := rfl
@[simp] theorem storeOutput_inputs (s : State) : (storeOutput s).inputs = s.inputs := rfl
@[simp] theorem storeOutput_responses (s : State) : (storeOutput s).responses = s.responses := rfl

/-- Reset leaves every field at its reset value, but the host's events. -/
@[simp] theorem applyReset_inputs (s : State) : (applyReset s).inputs = s.inputs := rfl
@[simp] theorem applyReset_st (s : State) : (applyReset s).st = State.reset.st := rfl
@[simp] theorem applyReset_ctrl (s : State) : (applyReset s).ctrl = State.reset.ctrl := rfl
@[simp] theorem applyReset_clip (s : State) : (applyReset s).clip = State.reset.clip := rfl
@[simp] theorem applyReset_ysat (s : State) : (applyReset s).ysat = State.reset.ysat := rfl
@[simp] theorem applyReset_cerr (s : State) : (applyReset s).cerr = State.reset.cerr := rfl
@[simp] theorem applyReset_ccode (s : State) : (applyReset s).ccode = State.reset.ccode := rfl
@[simp] theorem applyReset_fcode (s : State) : (applyReset s).fcode = State.reset.fcode := rfl
@[simp] theorem applyReset_cfgFs (s : State) : (applyReset s).cfgFs = State.reset.cfgFs := rfl
@[simp] theorem applyReset_cfgF (s : State) : (applyReset s).cfgF = State.reset.cfgF := rfl
@[simp] theorem applyReset_cfgT (s : State) : (applyReset s).cfgT = State.reset.cfgT := rfl
@[simp] theorem applyReset_cfgN (s : State) : (applyReset s).cfgN = State.reset.cfgN := rfl
@[simp] theorem applyReset_n (s : State) : (applyReset s).n = State.reset.n := rfl
@[simp] theorem applyReset_paIdx (s : State) : (applyReset s).paIdx = State.reset.paIdx := rfl
@[simp] theorem applyReset_tbl (s : State) : (applyReset s).tbl = State.reset.tbl := rfl
@[simp] theorem applyReset_b (s : State) : (applyReset s).b = State.reset.b := rfl
@[simp] theorem applyReset_a (s : State) : (applyReset s).a = State.reset.a := rfl
@[simp] theorem applyReset_x (s : State) : (applyReset s).x = State.reset.x := rfl
@[simp] theorem applyReset_y (s : State) : (applyReset s).y = State.reset.y := rfl
@[simp] theorem applyReset_responses (s : State) : (applyReset s).responses = State.reset.responses := rfl

end Sys2Proof.Machine
end

