-- ==== Sys2Proof/Laws/Effect.lean ====
section
/-! SUPPORT. Everything a command and a step can do, said once: the inversion of each shared operation, of `exec` and
of `step`. Later proofs cite these and do not unfold the meanings. -/

namespace Sys2Proof.Machine

/-- The state the error path of R262 leaves. -/
abbrev failed (c : RCode) (s : State) : State := addResponse c 0 (recordError c s)

theorem respond_next {c : RCode} {d : RespData} {s t : State} :
    respond c d s = .next t ↔ t = addResponse c d s := by
  simp only [respond, Host.Outcome.next.injEq]; exact eq_comm

theorem raiseErr_next {c : RCode} {s t : State} : raiseErr c s = .next t ↔ t = failed c s := respond_next

theorem inConfig_next {s t : State} {body : Host.Outcome State Fault Refusal} (h : inConfig s body = .next t) :
    (s.st = .config ∧ body = .next t) ∨ (s.st ≠ .config ∧ t = failed .badState s) := by
  unfold inConfig at h
  split at h
  · next hc => exact .inl ⟨hc, h⟩
  · next hc => exact .inr ⟨hc, raiseErr_next.1 h⟩

theorem withEntry_next {i : Nat} {s t : State} {body : Host.Outcome State Fault Refusal}
    (h : withEntry i s body = .next t) :
    (i < 64 ∧ body = .next t) ∨ (64 ≤ i ∧ t = failed .badIndex s) := by
  unfold withEntry at h
  split at h
  · next hi => exact .inl ⟨hi, h⟩
  · next hi => exact .inr ⟨not_lt.1 hi, raiseErr_next.1 h⟩

theorem inRun_next {m : Mode} {s t : State} {body : Host.Outcome State Fault Refusal} (h : inRun m s body = .next t) :
    (s.st = .run ∧ s.ctrl.mode = m ∧ body = .next t) ∨
    (s.st = .run ∧ s.ctrl.mode ≠ m ∧ t = failed .mode s) ∨ (s.st ≠ .run ∧ t = failed .badState s) := by
  unfold inRun at h
  split at h
  · next hr =>
    split at h
    · next hm => exact .inl ⟨hr, hm, h⟩
    · next hm => exact .inr (.inl ⟨hr, hm, raiseErr_next.1 h⟩)
  · next hr => exact .inr (.inr ⟨hr, raiseErr_next.1 h⟩)

/-- The value a SYN converts in a state (R176, R177). -/
abbrev synRaw (s : State) : Int := synProduct s.ctrl.shape (Memory.read s.tbl (synIndex s))

/-- The value a FLT stores and converts in a state (R222). -/
abbrev fltRaw (smp : SampleWord) (s : State) : Int := yStore (filterQuotient (pushSample smp s))

/-- What a command can leave: one constructor per way a command can end in a next state, with its guard. -/
inductive Effect : Instr → State → State → Prop where
  | nop (s) : Effect .nop s (addResponse .ok 0 s)
  | rdreg (s) (a : Index) (r : RegName) (h : registerAt a = some r) :
      Effect (.rdreg a) s (addResponse .ok (widenRegister (readRegister r s)) s)
  | rdregBad (s) (a : Index) (h : registerAt a = none) : Effect (.rdreg a) s (failed .badIndex s)
  | wrregBad (s) (a : Index) (v : RegWord) (h : registerAt a = none) : Effect (.wrreg a v) s (failed .badIndex s)
  | wrregReadOnly (s) (a : Index) (v : RegWord) (r : RegName) (h : registerAt a = some r)
      (hr : r = .id ∨ r = .params ∨ r = .paNLo ∨ r = .paNHi ∨ r = .paIdx) : Effect (.wrreg a v) s (failed .readOnly s)
  | wrregStatus (s) (a : Index) (v : RegWord) (h : registerAt a = some .status) :
      Effect (.wrreg a v) s (addResponse .ok 0 (clearStatus v s))
  | wrregState (s) (a : Index) (v : RegWord) (r : RegName) (h : registerAt a = some r)
      (hr : r = .ctrl ∨ r = .cfgFs ∨ r = .cfgF ∨ r = .cfgT ∨ r = .cfgN) (hs : s.st ≠ .config) :
      Effect (.wrreg a v) s (failed .badState s)
  | wrregCtrl (s) (a : Index) (v : RegWord) (c : Ctrl) (h : registerAt a = some .ctrl) (hs : s.st = .config)
      (hc : ctrlOfWord v = some c) : Effect (.wrreg a v) s (addResponse .ok 0 { s with ctrl := c })
  | wrregValue (s) (a : Index) (v : RegWord) (h : registerAt a = some .ctrl) (hs : s.st = .config)
      (hc : ctrlOfWord v = none) : Effect (.wrreg a v) s (failed .badValue s)
  | wrregFs (s) (a : Index) (v : RegWord) (h : registerAt a = some .cfgFs) (hs : s.st = .config) :
      Effect (.wrreg a v) s (addResponse .ok 0 { s with cfgFs := v })
  | wrregF (s) (a : Index) (v : RegWord) (h : registerAt a = some .cfgF) (hs : s.st = .config) :
      Effect (.wrreg a v) s (addResponse .ok 0 { s with cfgF := v })
  | wrregT (s) (a : Index) (v : RegWord) (h : registerAt a = some .cfgT) (hs : s.st = .config) :
      Effect (.wrreg a v) s (addResponse .ok 0 { s with cfgT := v })
  | wrregN (s) (a : Index) (v : RegWord) (h : registerAt a = some .cfgN) (hs : s.st = .config) :
      Effect (.wrreg a v) s (addResponse .ok 0 { s with cfgN := v })
  | rdtbl (s) (i : Index) : Effect (.rdtbl i) s (addResponse .ok (widenEntry (Memory.read s.tbl i.toNat)) s)
  | wrtbl (s) (i : Index) (v : RegWord) (hs : s.st = .config) :
      Effect (.wrtbl i v) s (addResponse .ok 0 { s with tbl := Memory.write s.tbl i.toNat v })
  | wrtblState (s) (i : Index) (v : RegWord) (hs : s.st ≠ .config) : Effect (.wrtbl i v) s (failed .badState s)
  | rdcb (s) (i : Index) (h : i.toNat < 64) :
      Effect (.rdcb i) s (addResponse .ok (widenEntry (Bank.read s.b i.toNat)) s)
  | rdcbBad (s) (i : Index) (h : 64 ≤ i.toNat) : Effect (.rdcb i) s (failed .badIndex s)
  | rdca (s) (i : Index) (h : i.toNat < 64) :
      Effect (.rdca i) s (addResponse .ok (widenEntry (Bank.read s.a i.toNat)) s)
  | rdcaBad (s) (i : Index) (h : 64 ≤ i.toNat) : Effect (.rdca i) s (failed .badIndex s)
  | rdhx (s) (i : Index) (h : i.toNat < 64) :
      Effect (.rdhx i) s (addResponse .ok (widenEntry (Bank.read s.x i.toNat)) s)
  | rdhxBad (s) (i : Index) (h : 64 ≤ i.toNat) : Effect (.rdhx i) s (failed .badIndex s)
  | rdhy (s) (i : Index) (h : i.toNat < 64) :
      Effect (.rdhy i) s (addResponse .ok (widenEntry (Bank.read s.y i.toNat)) s)
  | rdhyBad (s) (i : Index) (h : 64 ≤ i.toNat) : Effect (.rdhy i) s (failed .badIndex s)
  | wrcb (s) (i : Index) (v : RegWord) (h : i.toNat < 64) (hs : s.st = .config) :
      Effect (.wrcb i v) s (addResponse .ok 0 { s with b := Bank.write s.b i.toNat v })
  | wrcbBad (s) (i : Index) (v : RegWord) (h : 64 ≤ i.toNat) : Effect (.wrcb i v) s (failed .badIndex s)
  | wrcbState (s) (i : Index) (v : RegWord) (h : i.toNat < 64) (hs : s.st ≠ .config) :
      Effect (.wrcb i v) s (failed .badState s)
  | wrca (s) (i : Index) (v : RegWord) (h : i.toNat < 64) (hs : s.st = .config) :
      Effect (.wrca i v) s (addResponse .ok 0 { s with a := Bank.write s.a i.toNat v })
  | wrcaBad (s) (i : Index) (v : RegWord) (h : 64 ≤ i.toNat) : Effect (.wrca i v) s (failed .badIndex s)
  | wrcaState (s) (i : Index) (v : RegWord) (h : i.toNat < 64) (hs : s.st ≠ .config) :
      Effect (.wrca i v) s (failed .badState s)
  | startOk (s) (hs : s.st = .config) (hv : validate s = 0) : Effect .start s (addResponse .ok 0 { s with st := .run })
  | startFails (s) (hs : s.st = .config) (hv : validate s ≠ 0) :
      Effect .start s
        (addResponse .configFault ((validate s).setWidth 64) { s with st := .fault, fcode := validate s })
  | startState (s) (hs : s.st ≠ .config) : Effect .start s (failed .badState s)
  | syn (s) (hs : s.st = .run) (hm : s.ctrl.mode = .synth) (hfs : s.cfgFs ≠ 0) (ht : s.cfgT ≠ 0)
      (hi : synIndex s < 4096) :
      Effect .syn s (addResponse .ok (widenSample (convertSample s.ctrl.ovf (synRaw s)))
        (noteClip (convertClips (synRaw s)) (advancePhase (synIndex s) s)))
  | synMode (s) (hs : s.st = .run) (hm : s.ctrl.mode ≠ .synth) : Effect .syn s (failed .mode s)
  | synState (s) (hs : s.st ≠ .run) : Effect .syn s (failed .badState s)
  | flt (s) (smp : SampleWord) (hs : s.st = .run) (hm : s.ctrl.mode = .filter) (hn : order s ≤ 64) :
      Effect (.flt smp) s (addResponse .ok (widenSample (convertSample s.ctrl.ovf (fltRaw smp s)))
        (noteClip (convertClips (fltRaw smp s)) (storeOutput (pushSample smp s))))
  | fltMode (s) (smp : SampleWord) (hs : s.st = .run) (hm : s.ctrl.mode ≠ .filter) :
      Effect (.flt smp) s (failed .mode s)
  | fltState (s) (smp : SampleWord) (hs : s.st ≠ .run) : Effect (.flt smp) s (failed .badState s)

theorem execRdreg_effect {a : Index} {s t : State} (h : execRdreg a s = .next t) : Effect (.rdreg a) s t := by
  unfold execRdreg at h
  split at h
  · next hr => rw [raiseErr_next.1 h]; exact .rdregBad s a hr
  · next r hr => rw [respond_next.1 h]; exact .rdreg s a r hr

theorem writeCtrl_next {v : RegWord} {s t : State} (h : writeCtrl v s = .next t) :
    (∃ c, ctrlOfWord v = some c ∧ t = addResponse .ok 0 { s with ctrl := c }) ∨
    (ctrlOfWord v = none ∧ t = failed .badValue s) := by
  unfold writeCtrl at h
  split at h
  · next hc => exact .inr ⟨hc, raiseErr_next.1 h⟩
  · next c hc => exact .inl ⟨c, hc, respond_next.1 h⟩

theorem execWrreg_effect {a : Index} {v : RegWord} {s t : State} (h : execWrreg a v s = .next t) :
    Effect (.wrreg a v) s t := by
  unfold execWrreg at h
  split at h
  · next hr => rw [raiseErr_next.1 h]; exact .wrregBad s a v hr
  · next hr => rw [raiseErr_next.1 h]; exact .wrregReadOnly s a v _ hr (by simp)
  · next hr => rw [raiseErr_next.1 h]; exact .wrregReadOnly s a v _ hr (by simp)
  · next hr => rw [raiseErr_next.1 h]; exact .wrregReadOnly s a v _ hr (by simp)
  · next hr => rw [raiseErr_next.1 h]; exact .wrregReadOnly s a v _ hr (by simp)
  · next hr => rw [raiseErr_next.1 h]; exact .wrregReadOnly s a v _ hr (by simp)
  · next hr => rw [respond_next.1 h]; exact .wrregStatus s a v hr
  · next hr =>
    rcases inConfig_next h with ⟨hs, h⟩ | ⟨hs, rfl⟩
    · rcases writeCtrl_next h with ⟨c, hc, rfl⟩ | ⟨hc, rfl⟩
      · exact .wrregCtrl s a v c hr hs hc
      · exact .wrregValue s a v hr hs hc
    · exact .wrregState s a v _ hr (by simp) hs
  · next hr =>
    rcases inConfig_next h with ⟨hs, h⟩ | ⟨hs, rfl⟩
    · rw [respond_next.1 h]; exact .wrregFs s a v hr hs
    · exact .wrregState s a v _ hr (by simp) hs
  · next hr =>
    rcases inConfig_next h with ⟨hs, h⟩ | ⟨hs, rfl⟩
    · rw [respond_next.1 h]; exact .wrregF s a v hr hs
    · exact .wrregState s a v _ hr (by simp) hs
  · next hr =>
    rcases inConfig_next h with ⟨hs, h⟩ | ⟨hs, rfl⟩
    · rw [respond_next.1 h]; exact .wrregT s a v hr hs
    · exact .wrregState s a v _ hr (by simp) hs
  · next hr =>
    rcases inConfig_next h with ⟨hs, h⟩ | ⟨hs, rfl⟩
    · rw [respond_next.1 h]; exact .wrregN s a v hr hs
    · exact .wrregState s a v _ hr (by simp) hs

theorem execWrtbl_effect {i : Index} {v : RegWord} {s t : State} (h : execWrtbl i v s = .next t) :
    Effect (.wrtbl i v) s t := by
  rcases inConfig_next h with ⟨hs, h⟩ | ⟨hs, rfl⟩
  · rw [respond_next.1 h]; exact .wrtbl s i v hs
  · exact .wrtblState s i v hs

theorem execRdcb_effect {i : Index} {s t : State} (h : execRdcb i s = .next t) : Effect (.rdcb i) s t := by
  rcases withEntry_next h with ⟨hi, h⟩ | ⟨hi, rfl⟩
  · rw [respond_next.1 h]; exact .rdcb s i hi
  · exact .rdcbBad s i hi

theorem execRdca_effect {i : Index} {s t : State} (h : execRdca i s = .next t) : Effect (.rdca i) s t := by
  rcases withEntry_next h with ⟨hi, h⟩ | ⟨hi, rfl⟩
  · rw [respond_next.1 h]; exact .rdca s i hi
  · exact .rdcaBad s i hi

theorem execRdhx_effect {i : Index} {s t : State} (h : execRdhx i s = .next t) : Effect (.rdhx i) s t := by
  rcases withEntry_next h with ⟨hi, h⟩ | ⟨hi, rfl⟩
  · rw [respond_next.1 h]; exact .rdhx s i hi
  · exact .rdhxBad s i hi

theorem execRdhy_effect {i : Index} {s t : State} (h : execRdhy i s = .next t) : Effect (.rdhy i) s t := by
  rcases withEntry_next h with ⟨hi, h⟩ | ⟨hi, rfl⟩
  · rw [respond_next.1 h]; exact .rdhy s i hi
  · exact .rdhyBad s i hi

theorem execWrcb_effect {i : Index} {v : RegWord} {s t : State} (h : execWrcb i v s = .next t) :
    Effect (.wrcb i v) s t := by
  rcases withEntry_next h with ⟨hi, h⟩ | ⟨hi, rfl⟩
  · rcases inConfig_next h with ⟨hs, h⟩ | ⟨hs, rfl⟩
    · rw [respond_next.1 h]; exact .wrcb s i v hi hs
    · exact .wrcbState s i v hi hs
  · exact .wrcbBad s i v hi

theorem execWrca_effect {i : Index} {v : RegWord} {s t : State} (h : execWrca i v s = .next t) :
    Effect (.wrca i v) s t := by
  rcases withEntry_next h with ⟨hi, h⟩ | ⟨hi, rfl⟩
  · rcases inConfig_next h with ⟨hs, h⟩ | ⟨hs, rfl⟩
    · rw [respond_next.1 h]; exact .wrca s i v hi hs
    · exact .wrcaState s i v hi hs
  · exact .wrcaBad s i v hi

theorem execStart_effect {s t : State} (h : execStart s = .next t) : Effect .start s t := by
  rcases inConfig_next h with ⟨hs, h⟩ | ⟨hs, rfl⟩
  · split at h
    · next hv => rw [respond_next.1 h]; exact .startOk s hs hv
    · next hv => rw [respond_next.1 h]; exact .startFails s hs hv
  · exact .startState s hs

theorem execSyn_effect {s t : State} (h : execSyn s = .next t) : Effect .syn s t := by
  rcases inRun_next h with ⟨hs, hm, h⟩ | ⟨hs, hm, rfl⟩ | ⟨hs, rfl⟩
  · split at h
    · cases h
    · next hz =>
      split at h
      · cases h
      · next hi =>
        rw [respond_next.1 h]
        exact .syn s hs hm (fun e => hz (.inl e)) (fun e => hz (.inr e)) (not_le.1 hi)
  · exact .synMode s hs hm
  · exact .synState s hs

theorem execFlt_effect {smp : SampleWord} {s t : State} (h : execFlt smp s = .next t) : Effect (.flt smp) s t := by
  rcases inRun_next h with ⟨hs, hm, h⟩ | ⟨hs, hm, rfl⟩ | ⟨hs, rfl⟩
  · split at h
    · cases h
    · next hn => rw [respond_next.1 h]; exact .flt s smp hs hm (not_lt.1 hn)
  · exact .fltMode s smp hs hm
  · exact .fltState s smp hs

/-- Everything a command can do: if it answers a next state, one of `Effect`'s cases holds. -/
theorem exec_effect {i : Instr} {s t : State} (h : exec i s = .next t) : Effect i s t := by
  cases i with
  | nop => rw [respond_next.1 h]; exact .nop s
  | rdreg a => exact execRdreg_effect h
  | wrreg a v => exact execWrreg_effect h
  | rdtbl i => rw [respond_next.1 h]; exact .rdtbl s i
  | wrtbl i v => exact execWrtbl_effect h
  | rdcb i => exact execRdcb_effect h
  | wrcb i v => exact execWrcb_effect h
  | rdca i => exact execRdca_effect h
  | wrca i v => exact execWrca_effect h
  | rdhx i => exact execRdhx_effect h
  | rdhy i => exact execRdhy_effect h
  | start => exact execStart_effect h
  | syn => exact execSyn_effect h
  | flt smp => exact execFlt_effect h

/-- A word from the host: the error path with ILLEGAL, or the decoded command's effect. -/
theorem performWord_next {cw : CmdWord} {s t : State} (h : performWord cw s = .next t) :
    (∃ e, decode cw = .error e ∧ t = failed .illegal s) ∨ (∃ i, decode cw = .ok i ∧ exec i s = .next t) := by
  unfold performWord at h
  split at h
  · next e he => exact .inl ⟨e, he, raiseErr_next.1 h⟩
  · next i hi => exact .inr ⟨i, hi, h⟩

/-- Everything a step can do: idle, reset, or perform a word. -/
theorem step_next {s t : State} (h : step s = .next t) :
    (s.inputs = [] ∧ t = s) ∨
    (∃ rest, (s.inputs = .reset :: rest ∨ ∃ cw, s.inputs = .resetDuring cw :: rest) ∧
      t = { State.reset with inputs := rest }) ∨
    (∃ cw rest, s.inputs = .command cw :: rest ∧ performWord cw { s with inputs := rest } = .next t) := by
  unfold step at h
  split at h
  · next he => cases h; exact .inl ⟨he, rfl⟩
  · next cw rest he =>
    refine .inr (.inr ⟨cw, rest, he, ?_⟩)
    rw [← h, acceptEvent, he]; rfl
  · next rest he =>
    refine .inr (.inl ⟨rest, .inl he, ?_⟩)
    cases h; simp [applyReset, acceptEvent, he]
  · next cw rest he =>
    refine .inr (.inl ⟨rest, .inr ⟨cw, he⟩, ?_⟩)
    cases h; simp [applyReset, acceptEvent, he]

/-- A failing command changes CERR, CCODE and the responses only (R262). -/
theorem failed_eq (c : RCode) (s : State) :
    failed c s = { s with cerr := true, ccode := c.bits, responses := s.responses ++ [⟨c.bits, 0⟩] } := rfl

/-- START's fault code is one of 0 to 4 (R132, R261). -/
theorem validate_le (s : State) : (validate s).toNat ≤ 4 := by
  unfold validate
  split
  · decide
  · split
    · split
      · decide
      · split <;> decide
    · split <;> decide

/-- What a START that passes validation has checked (R132). -/
theorem validate_zero (s : State) (h : validate s = 0) :
    s.cfgFs.toNat ∈ Config.fsSet ∧
    (s.ctrl.mode = .synth → 1 ≤ s.cfgT.toNat ∧ s.cfgT.toNat ≤ 4096 ∧ 2 * s.cfgF.toNat < s.cfgFs.toNat) ∧
    (s.ctrl.mode = .filter → 1 ≤ s.cfgN.toNat ∧ s.cfgN.toNat ≤ 64) := by
  unfold validate at h
  split at h
  · exact absurd h (by decide)
  · next hfs =>
    refine ⟨not_not.1 hfs, fun hm => ?_, fun hm => ?_⟩
    · rw [hm] at h
      simp only at h
      split at h
      · exact absurd h (by decide)
      · next ht =>
        split at h
        · exact absurd h (by decide)
        · next hf => simp only [Config.tMax] at ht; omega
    · rw [hm] at h
      simp only at h
      split at h
      · exact absurd h (by decide)
      · next hn => simp only [Config.nMax] at hn; omega

end Sys2Proof.Machine
end

