-- ==== Sys2Proof/Laws/FixedPoint.lean ====
section
/-! SUPPORT. The primitives of R10 in the operations Lean's arithmetic lemmas are about. -/

namespace Sys2Proof.Machine

/-- Floor division by a positive divisor is Euclidean division. -/
theorem floorDiv_pos (a : Int) {b : Int} (hb : 0 < b) : floorDiv a b = a / b :=
  Int.fdiv_eq_ediv_of_nonneg a hb.le

theorem clamp_eq (v lo hi : Int) (h : lo ≤ hi) : clamp v lo hi = max lo (min hi v) := by
  unfold clamp
  split
  · omega
  · split <;> omega

/-- The bounds of truncation toward zero, for either sign. -/
theorem truncRaw_spec (v : Int) :
    (0 ≤ v → truncRaw v * 16777216 ≤ v ∧ v < truncRaw v * 16777216 + 16777216) ∧
    (v ≤ 0 → v ≤ truncRaw v * 16777216 ∧ truncRaw v * 16777216 - 16777216 < v) := by
  have h := Int.mul_tdiv_add_tmod v 16777216
  have hlt := Int.tmod_lt_of_pos v (show (0 : Int) < 16777216 by decide)
  have hneg := Int.lt_tmod_of_pos v (show (0 : Int) < 16777216 by decide)
  constructor
  · intro hv
    have := Int.tmod_nonneg 16777216 hv
    simp only [truncRaw, truncDiv, Config.one]
    omega
  · intro hv
    have hle : Int.tmod v 16777216 ≤ 0 := by
      have := Int.tmod_nonneg 16777216 (show 0 ≤ -v by omega)
      rw [Int.neg_tmod] at this
      omega
    simp only [truncRaw, truncDiv, Config.one]
    omega

@[simp] theorem truncRaw_neg (v : Int) : truncRaw (-v) = -truncRaw v := by
  simp [truncRaw, truncDiv, Int.neg_tdiv]

/-- `wrap_16` by its formula (R241). -/
theorem sext_sixteen (t : Int) : sext 16 t = (t + 32768) % 65536 - 32768 := by
  unfold sext
  rw [BitVec.toInt_ofInt, Int.bmod_def]
  norm_num
  omega

theorem clips_iff (t : Int) : clips t = true ↔ t < -32768 ∨ 32767 < t := by
  simp only [clips, Bool.or_eq_true, decide_eq_true_eq]
  rfl

/-- Every sample is in the 16-bit range (R241). -/
theorem narrowSample_range (ovf : Ovf) (t : Int) : -32768 ≤ narrowSample ovf t ∧ narrowSample ovf t ≤ 32767 := by
  cases ovf
  · rw [narrowSample, clamp_eq t Config.sMin Config.sMax (by decide)]; simp only [Config.sMin, Config.sMax]; omega
  · simp only [narrowSample, sext_sixteen]; omega

/-- An integer in range is its own sample, under both policies. -/
theorem narrowSample_of_in_range (ovf : Ovf) (t : Int) (h : -32768 ≤ t ∧ t ≤ 32767) : narrowSample ovf t = t := by
  cases ovf
  · rw [narrowSample, clamp_eq t Config.sMin Config.sMax (by decide)]; simp only [Config.sMin, Config.sMax]; omega
  · simp only [narrowSample, sext_sixteen]; omega

/-- The exact sum as a sum over a range (R222). -/
theorem sumBelow_eq_sum (k : Nat) (f : Nat → Int) : sumBelow k f = ∑ i ∈ Finset.range k, f i := by
  induction k with
  | zero => rfl
  | succ k ih => rw [sumBelow, ih, Finset.sum_range_succ]

/-- Sums of terms that agree below the bound are equal. -/
theorem sumBelow_congr (k : Nat) (f g : Nat → Int) (h : ∀ i < k, f i = g i) : sumBelow k f = sumBelow k g := by
  induction k with
  | zero => rfl
  | succ k ih => rw [sumBelow, sumBelow, ih (fun i hi => h i (by omega)), h k (by omega)]

/-- Widening an entry is sign extension (R72). -/
theorem widenEntry_eq {w : Nat} (e : BitVec w) : widenEntry e = e.signExtend 64 := rfl

/-- An integer that fits `w` bits is read back from its pattern. -/
theorem toInt_bitsOf (w : Nat) (v : Int) (lo : -2 ^ (w - 1) ≤ v) (hi : v < 2 ^ (w - 1)) (hw : 0 < w) :
    (bitsOf w v).toInt = v := by
  obtain ⟨k, rfl⟩ : ∃ k, w = k + 1 := ⟨w - 1, by omega⟩
  rw [bitsOf, BitVec.toInt_ofInt, Int.bmod_eq_of_le] <;> push_cast [pow_succ] at * <;> omega

/-- `sext_16(RDATA[15:0])` gives back a 16-bit sample (R72, R273). -/
theorem sample_widenSample (c : Code) (v : Int) (h : -32768 ≤ v ∧ v ≤ 32767) :
    Response.sample ⟨c, widenSample v⟩ = v := by
  have : (BitVec.ofInt 64 v).extractLsb' 0 16 = BitVec.ofInt 16 v := by
    apply BitVec.eq_of_toNat_eq
    rw [BitVec.extractLsb'_toNat, BitVec.toNat_ofInt, BitVec.toNat_ofInt]
    simp only [Nat.shiftRight_zero]
    norm_num
    omega
  simp only [Response.sample, widenSample, bitsOf, this]
  exact toInt_bitsOf 16 v (by norm_num; omega) (by norm_num; omega) (by decide)

end Sys2Proof.Machine
end

