-- ==== Sys2Proof/Laws/Memory.lean ====
section
/-! SUPPORT. TBL as a list in canonical form: what a read answers after a write, and that a write keeps the form. -/

namespace Sys2Proof.Machine

@[simp] theorem Memory.read_nil (i : Nat) : Memory.read [] i = Memory.blank := rfl

theorem Memory.read_cons (c : Nat × QWord) (m : Memory) (i : Nat) :
    Memory.read (c :: m) i = if c.1 = i then c.2 else Memory.read m i := rfl

/-- An index no cell lists reads as the blank value. -/
theorem Memory.read_of_not_listed (m : Memory) (i : Nat) (h : ∀ c ∈ m, c.1 ≠ i) :
    Memory.read m i = Memory.blank := by
  induction m with
  | nil => rfl
  | cons c m ih =>
    rw [Memory.read_cons, if_neg (h c (by simp))]
    exact ih (fun d hd => h d (by simp [hd]))

/-- A listed cell of a strictly rising list is what its index reads as. -/
theorem Memory.read_of_listed (m : Memory) (hm : m.Pairwise (fun c d => c.1 < d.1)) (c : Nat × QWord) (hc : c ∈ m) :
    Memory.read m c.1 = c.2 := by
  induction m with
  | nil => simp at hc
  | cons d m ih =>
    rw [List.pairwise_cons] at hm
    rcases List.mem_cons.1 hc with rfl | hc
    · simp [Memory.read_cons]
    · rw [Memory.read_cons, if_neg (by have := hm.1 c hc; omega)]
      exact ih hm.2 hc

theorem Memory.read_filter_same (m : Memory) (i : Nat) :
    Memory.read (m.filter (fun c => c.1 != i)) i = Memory.blank :=
  Memory.read_of_not_listed _ _ (by intro c hc; simpa using (List.mem_filter.1 hc).2)

theorem Memory.read_filter_other (m : Memory) (i j : Nat) (h : j ≠ i) :
    Memory.read (m.filter (fun c => c.1 != i)) j = Memory.read m j := by
  induction m with
  | nil => rfl
  | cons c m ih =>
    by_cases hc : c.1 = i
    · rw [List.filter_cons_of_neg (by simp [hc]), ih, Memory.read_cons, if_neg (by omega)]
    · rw [List.filter_cons_of_pos (by simp [hc]), Memory.read_cons, Memory.read_cons, ih]

theorem Memory.read_insertCell_same (m : Memory) (i : Nat) (v : QWord) (h : ∀ c ∈ m, c.1 ≠ i) :
    Memory.read (Memory.insertCell i v m) i = v := by
  induction m with
  | nil => simp [Memory.insertCell, Memory.read_cons]
  | cons c m ih =>
    have hc := h c (by simp)
    unfold Memory.insertCell
    split
    · simp [Memory.read_cons]
    · rw [Memory.read_cons, if_neg hc]
      exact ih (fun d hd => h d (by simp [hd]))

theorem Memory.read_insertCell_other (m : Memory) (i j : Nat) (v : QWord) (h : j ≠ i) :
    Memory.read (Memory.insertCell i v m) j = Memory.read m j := by
  induction m with
  | nil => simp [Memory.insertCell, Memory.read_cons, Ne.symm h]
  | cons c m ih =>
    unfold Memory.insertCell
    split
    · rw [Memory.read_cons, if_neg (Ne.symm h)]
    · rw [Memory.read_cons, Memory.read_cons, ih]

/-- Read after write at the same index, in every list. -/
@[simp] theorem Memory.read_write_same (m : Memory) (i : Nat) (v : QWord) :
    Memory.read (Memory.write m i v) i = v := by
  unfold Memory.write
  simp only
  split
  · next h => rw [Memory.read_filter_same, h]
  · exact Memory.read_insertCell_same _ _ _ (by intro c hc; simpa using (List.mem_filter.1 hc).2)

/-- A write leaves every other index alone, in every list. -/
theorem Memory.read_write_other (m : Memory) (i j : Nat) (v : QWord) (h : j ≠ i) :
    Memory.read (Memory.write m i v) j = Memory.read m j := by
  unfold Memory.write
  simp only
  split
  · exact Memory.read_filter_other m i j h
  · rw [Memory.read_insertCell_other _ _ _ _ h, Memory.read_filter_other m i j h]

theorem Memory.mem_insertCell (m : Memory) (i : Nat) (v : QWord) (c : Nat × QWord) :
    c ∈ Memory.insertCell i v m ↔ c = (i, v) ∨ c ∈ m := by
  induction m with
  | nil => simp [Memory.insertCell]
  | cons d m ih =>
    unfold Memory.insertCell
    split
    · simp
    · simp only [List.mem_cons, ih]; tauto

theorem Memory.rising_insertCell (m : Memory) (i : Nat) (v : QWord) (hm : m.Pairwise (fun c d => c.1 < d.1))
    (h : ∀ c ∈ m, c.1 ≠ i) : (Memory.insertCell i v m).Pairwise (fun c d => c.1 < d.1) := by
  induction m with
  | nil => simp [Memory.insertCell]
  | cons d m ih =>
    rw [List.pairwise_cons] at hm
    unfold Memory.insertCell
    split
    · next hlt =>
      refine List.pairwise_cons.2 ⟨?_, List.pairwise_cons.2 hm⟩
      intro c hc
      rcases List.mem_cons.1 hc with rfl | hc
      · exact hlt
      · exact lt_trans hlt (hm.1 c hc)
    · next hge =>
      refine List.pairwise_cons.2 ⟨?_, ih hm.2 (fun c hc => h c (by simp [hc]))⟩
      intro c hc
      rcases (Memory.mem_insertCell m i v c).1 hc with rfl | hc
      · have := h d (by simp); simp only; omega
      · exact hm.1 c hc

/-- A write inside the table keeps the canonical form. -/
theorem Memory.wf_write (m : Memory) (i : Nat) (v : QWord) (hm : Memory.wf m) (hi : i < Config.tMax) :
    Memory.wf (Memory.write m i v) := by
  have hf : Memory.wf (m.filter (fun c => c.1 != i)) :=
    ⟨hm.1.filter _, fun c hc => hm.2 c (List.mem_filter.1 hc).1⟩
  unfold Memory.write
  simp only
  split
  · exact hf
  · next hv =>
    refine ⟨Memory.rising_insertCell _ _ _ hf.1 (by intro c hc; simpa using (List.mem_filter.1 hc).2), ?_⟩
    intro c hc
    rcases (Memory.mem_insertCell _ i v c).1 hc with rfl | hc
    · exact ⟨hi, hv⟩
    · exact hf.2 c hc

/-- The reset table is in canonical form and reads as the blank value everywhere (R45). -/
theorem Memory.wf_reset : Memory.wf State.reset.tbl := by decide

/-- Only a listed index reads as another value than the blank one. -/
theorem Memory.listed_of_read_ne (m : Memory) (i : Nat) (h : Memory.read m i ≠ Memory.blank) :
    (i, Memory.read m i) ∈ m := by
  induction m with
  | nil => simp at h
  | cons c m ih =>
    rw [Memory.read_cons] at h ⊢
    split
    · next hc => subst hc; simp
    · next hc => rw [if_neg hc] at h; exact List.mem_cons_of_mem _ (ih h)

/-- Taking out the entry that was just listed gives back a list that had none at that index. -/
theorem Memory.filter_insertCell_same (m : Memory) (i : Nat) (v : QWord) (h : ∀ c ∈ m, c.1 ≠ i) :
    (Memory.insertCell i v m).filter (fun c => c.1 != i) = m := by
  induction m with
  | nil => simp [Memory.insertCell]
  | cons c m ih =>
    have hc : c.1 ≠ i := h c (by simp)
    have hm : ∀ d ∈ m, d.1 ≠ i := fun d hd => h d (by simp [hd])
    unfold Memory.insertCell
    split
    · have := List.filter_eq_self (p := fun d : Nat × QWord => d.1 != i) (l := m)
      simp [hc, this.2 (fun d hd => by simp [hm d hd])]
    · simp [hc, ih hm]

/-- A repeated write of one entry leaves the list it left (R76). -/
theorem Memory.write_write_same (m : Memory) (i : Nat) (v : QWord) :
    Memory.write (Memory.write m i v) i v = Memory.write m i v := by
  unfold Memory.write
  by_cases hv : v = Memory.blank
  · simp [hv]
  · simp only [hv, if_false]
    rw [Memory.filter_insertCell_same _ _ _ (by intro c hc; simpa using (List.mem_filter.1 hc).2)]

end Sys2Proof.Machine
end

