-- ==== Sys2Proof/Laws/PerInstr.lean ====
section
/-! SUPPORT. The family `FieldsClear` of LAWS.json: for each command, the fields `encode` writes name that command, its
opcode is assigned, and its format's reserved fields are clear (R92, R93). -/

namespace Sys2Proof.Laws.FieldsClear

/-- The fields of a command are read back as that command, in a format whose reserved fields they leave clear. -/
def Statement (i : Instr) : Prop :=
  instrOf i.fields = some i ∧ ∃ fmt, formatOf i.fields.op = some fmt ∧ fmt.reservedClear i.fields

theorem nop : Statement .nop := ⟨rfl, .z, rfl, rfl, rfl, rfl⟩
theorem rdreg (idx : Index) : Statement (.rdreg idx) := ⟨rfl, .a, rfl, rfl, rfl⟩
theorem wrreg (idx : Index) (imm : RegWord) : Statement (.wrreg idx imm) := ⟨rfl, .w, rfl, rfl⟩
theorem rdtbl (idx : Index) : Statement (.rdtbl idx) := ⟨rfl, .a, rfl, rfl, rfl⟩
theorem wrtbl (idx : Index) (imm : RegWord) : Statement (.wrtbl idx imm) := ⟨rfl, .w, rfl, rfl⟩
theorem rdcb (idx : Index) : Statement (.rdcb idx) := ⟨rfl, .a, rfl, rfl, rfl⟩
theorem wrcb (idx : Index) (imm : RegWord) : Statement (.wrcb idx imm) := ⟨rfl, .w, rfl, rfl⟩
theorem rdca (idx : Index) : Statement (.rdca idx) := ⟨rfl, .a, rfl, rfl, rfl⟩
theorem wrca (idx : Index) (imm : RegWord) : Statement (.wrca idx imm) := ⟨rfl, .w, rfl, rfl⟩
theorem rdhx (idx : Index) : Statement (.rdhx idx) := ⟨rfl, .a, rfl, rfl, rfl⟩
theorem rdhy (idx : Index) : Statement (.rdhy idx) := ⟨rfl, .a, rfl, rfl, rfl⟩
theorem start : Statement .start := ⟨rfl, .z, rfl, rfl, rfl, rfl⟩
theorem syn : Statement .syn := ⟨rfl, .z, rfl, rfl, rfl, rfl⟩
theorem flt (smp : SampleWord) : Statement (.flt smp) := ⟨rfl, .s, rfl, rfl, rfl⟩

end Sys2Proof.Laws.FieldsClear
end

