-- ==== Sys2Proof/Tests/Slice0.lean ====
section
/-! SUPPORT. The model's own tests. Expected results come from spec/95_test_vectors.md (named in each docstring) or from
the rule a docstring names, computed by hand. The last section shows, for every obligation that has hypotheses, concrete
states and operands that meet them. -/

namespace Sys2Proof.Tests

open Sys2Proof.Machine Sys2Proof.Safety

/-! ### Helpers -/

/-- The last response of a step's next state; `some` says that the step answered a next state. -/
def lastResponse : Host.Outcome State Fault Refusal → Option Response
  | .next t => t.responses.getLast?
  | .fault _ => none
  | .refused _ => none

/-- A view of a step's next state. -/
def view {α : Type} (f : State → α) : Host.Outcome State Fault Refusal → Option α
  | .next t => some (f t)
  | .fault _ => none
  | .refused _ => none

/-- STATUS as RDREG reads it, of a step's next state. -/
abbrev statusAfter (o : Host.Outcome State Fault Refusal) : Option RegWord := view statusWord o

/-- A file whose first entries are listed. -/
def bankOf {w : Nat} (l : List (BitVec w)) : Bank w := Vector.ofFn (fun i => l.getD i.val 0)

/-- RUN in SYNTH mode: 8000 Hz, 1000 Hz, T = 4, the corner table of L2-SYN. -/
def synRun : State :=
  { State.reset with
    st := .run, cfgFs := 8000, cfgF := 2000, cfgT := 4,
    tbl := [(0, 0x00800000), (1, 0x80000000), (2, 0x01000000), (3, 0x7FFFFFFF)] }

/-- RUN in FILTER mode, SAT: N = 2, `B = [1.0, 0.5]`, A = 0 (L1-8). -/
def fltRun : State :=
  { State.reset with
    st := .run, ctrl := ⟨.filter, .sat, .negabs⟩, cfgFs := 8000, cfgN := 2,
    b := bankOf [0x01000000, 0x00800000] }

/-- FAULT after a START that failed with F_NYQUIST (P4). -/
def faulted : State := { State.reset with st := .fault, fcode := 3, cfgFs := 8000, cfgF := 4000, cfgT := 256 }

/-- CONFIG, with a legal SYNTH configuration, and the host about to send START. -/
def startReady : State := { State.reset with cfgFs := 8000, cfgT := 8, inputs := [.command 0xB0000000] }

/-! ### WellFormed: an ill-formed term for each check (R98), and the neighbour it accepts -/

theorem test_wf_idx : idxWellFormed 4095 = true ∧ idxWellFormed 4096 = false := by decide
theorem test_wf_reg : (AsmReg.addr 0xFFF).wellFormed = true ∧ (AsmReg.addr 0x1000).wellFormed = false := by decide
theorem test_wf_imm : immInRange (-2147483648) = true ∧ immInRange (-2147483649) = false ∧
    immInRange 4294967295 = true ∧ immInRange 4294967296 = false := by decide
theorem test_wf_q_range : (AsmImm.q (-128) 0).wellFormed = true ∧ (AsmImm.q 128 0).wellFormed = false ∧
    qInRange 2147483648 = false := by decide
theorem test_wf_q_exact : (AsmImm.q 5 1).wellFormed = true ∧ (AsmImm.q 1 1).wellFormed = false := by decide
theorem test_wf_smp : (AsmSmp.dec (-32768)).wellFormed = true ∧ (AsmSmp.dec (-32769)).wellFormed = false ∧
    (AsmSmp.hex 0xFFFF).wellFormed = true ∧ (AsmSmp.hex 0x10000).wellFormed = false := by decide
theorem test_wf_lines :
    assemble (.rdreg (.addr 4096)) = none ∧ assemble (.wrreg (.name .ctrl) (.int 4294967296)) = none ∧
    assemble (.rdtbl 4096) = none ∧ assemble (.wrcb 0 (.q 1 1)) = none ∧ assemble (.flt (.dec 32768)) = none ∧
    assemble (.cfgsyn (.int 8000) (.int 4294967296) (.int 8)) = none ∧
    assemble (.cfgflt (.int (-2147483649)) (.int 1)) = none := by decide
/-- R99's expansions. -/
theorem test_pseudo :
    assemble .rdst = some [0x0000000010030000] ∧
    assemble (.setctrl .filter .wrap .ident) = some [0x0000000720020000] ∧
    assemble (.cfgsyn (.int 8000) (.int 1000) (.int 256)) =
      some [0x00001F4020040000, 0x000003E820050000, 0x0000010020060000] ∧
    assemble (.cfgflt (.int 8000) (.int 2)) = some [0x00001F4020040000, 0x0000000220070000] := by decide

/-- R100's and L2-ENC's lines as text, and what a comment or a blank line gives. -/
theorem test_text_lines :
    Assembler.assembleLine "WRREG CFG_FS, 8000".toList = some [0x00001F4020040000] ∧
    Assembler.assembleLine "WRCA 1, q(-0.5)  ; feedback".toList = some [0xFF80000080010000] ∧
    Assembler.assembleLine "WRTBL 5, 0xFF4AFB0D".toList = some [0xFF4AFB0D40050000] ∧
    Assembler.assembleLine "FLT -1".toList = some [0x00000000D000FFFF] ∧
    Assembler.assembleLine "  RDREG 0x00B".toList = some [0x00000000100B0000] ∧
    Assembler.assembleLine "SETCTRL FILTER, WRAP, IDENT".toList = some [0x0000000720020000] ∧
    Assembler.assembleLine "; nothing".toList = some [] := by decide
/-- R98: an unknown command, an operand out of range, an inexact `q(v)`, a missing operand. -/
theorem test_text_errors :
    Assembler.assembleLine "HALT".toList = none ∧ Assembler.assembleLine "RDTBL 4096".toList = none ∧
    Assembler.assembleLine "WRCB 0, q(0.1)".toList = none ∧ Assembler.assembleLine "WRCB 0".toList = none := by decide
/-- P2's first lines as a text. -/
theorem test_text :
    Assembler.assembleText ["WRREG CTRL, 1".toList, "CFGFLT 8000, 2".toList, "START".toList] =
      some [0x0000000120020000, 0x00001F4020040000, 0x0000000220070000, 0x00000000B0000000] := by decide

/-! ### Decoding: every opcode's word, bit by bit from R90 and R93 (IMM, OP, IDX, SMP) -/

theorem test_decode_nop :
    decode (0b00000000000000000000000000000000_0000_000000000000_0000000000000000#64) =
      .ok .nop := by decide
theorem test_decode_rdreg :
    decode (0b00000000000000000000000000000000_0001_000000000011_0000000000000000#64) =
      .ok (.rdreg 3) := by decide
theorem test_decode_wrreg :
    decode (0b00000000000000000001111101000000_0010_000000000100_0000000000000000#64) =
      .ok (.wrreg 4 8000) := by decide
theorem test_decode_rdtbl :
    decode (0b00000000000000000000000000000000_0011_111111111111_0000000000000000#64) =
      .ok (.rdtbl 4095) := by decide
theorem test_decode_wrtbl :
    decode (0b11111111010010101111101100001101_0100_000000000101_0000000000000000#64) =
      .ok (.wrtbl 5 0xFF4AFB0D) := by decide
theorem test_decode_rdcb :
    decode (0b00000000000000000000000000000000_0101_000000000001_0000000000000000#64) =
      .ok (.rdcb 1) := by decide
theorem test_decode_wrcb :
    decode (0b00000000100000000000000000000000_0110_000000000001_0000000000000000#64) =
      .ok (.wrcb 1 0x00800000) := by decide
theorem test_decode_rdca :
    decode (0b00000000000000000000000000000000_0111_000000000001_0000000000000000#64) =
      .ok (.rdca 1) := by decide
theorem test_decode_wrca :
    decode (0b11111111100000000000000000000000_1000_000000000001_0000000000000000#64) =
      .ok (.wrca 1 0xFF800000) := by decide
theorem test_decode_rdhx :
    decode (0b00000000000000000000000000000000_1001_000001000000_0000000000000000#64) =
      .ok (.rdhx 64) := by decide
theorem test_decode_rdhy :
    decode (0b00000000000000000000000000000000_1010_000000000011_0000000000000000#64) =
      .ok (.rdhy 3) := by decide
theorem test_decode_start :
    decode (0b00000000000000000000000000000000_1011_000000000000_0000000000000000#64) =
      .ok .start := by decide
theorem test_decode_syn :
    decode (0b00000000000000000000000000000000_1100_000000000000_0000000000000000#64) =
      .ok .syn := by decide
theorem test_decode_flt :
    decode (0b00000000000000000000000000000000_1101_000000000000_1000101011010000#64) =
      .ok (.flt 0x8AD0) := by decide
/-- L2-ENC's reserved opcodes. -/
theorem test_decode_reserved_opcode :
    decode 0x00000000E0000000 = .error .reservedOpcode ∧ decode 0x00000000F0000000 = .error .reservedOpcode := by decide
/-- L2-ENC's reserved fields. -/
theorem test_decode_reserved_field :
    decode 0x00000000C0010000 = .error .reservedField ∧ decode 0x00000001C0000000 = .error .reservedField ∧
    decode 0x00000000C0000001 = .error .reservedField ∧ decode 0x0000000010000001 = .error .reservedField ∧
    decode 0x0000000110000000 = .error .reservedField ∧ decode 0x00000000D0010000 = .error .reservedField ∧
    decode 0x00000001D0000000 = .error .reservedField ∧ decode 0x0000000020000001 = .error .reservedField ∧
    decode 0x0000000000000001 = .error .reservedField := by decide
/-- The host's reading of a table row, with the row's 64 bits, and none for a reserved opcode. -/
theorem test_decode_table_word :
    decodeTableWord 64 0x00000000A0030000 = some (.rdhy 3) ∧ decodeTableWord 64 0xE0000000 = none := by decide

/-! ### One step -/

/-- L2-ENC: an ILLEGAL word from reset gives rc=1, data 0 and STATUS 0x110. -/
theorem test_step_illegal :
    lastResponse (step (State.reset.withFetchWord 64 0xE0000000)) = some ⟨1, 0⟩ ∧
    statusAfter (step (State.reset.withFetchWord 64 0xE0000000)) = some 0x00000110 := by decide
/-- L2-STATE: NOP in FAULT. -/
theorem test_nop :
    lastResponse (exec .nop faulted) = some ⟨0, 0⟩ ∧ statusAfter (exec .nop faulted) = some 0x00003002 := by decide
/-- L2-CTL rows 1 and 2. -/
theorem test_rdreg_constants : lastResponse (exec (.rdreg 0) State.reset) = some ⟨0, 0x4E530001⟩ ∧
    lastResponse (exec (.rdreg 1) State.reset) = some ⟨0, 0x00401000⟩ := by decide
/-- R43: PA_N_HI and PA_N_LO are the halves of `n`; L2-CTL row 7. -/
theorem test_rdreg_halves :
    lastResponse (exec (.rdreg 8) { State.reset with n := 0x1122334455667788 }) = some ⟨0, 0x55667788⟩ ∧
    lastResponse (exec (.rdreg 9) { State.reset with n := 0x1122334455667788 }) = some ⟨0, 0x11223344⟩ ∧
    lastResponse (exec (.rdreg 0x00B) State.reset) = some ⟨2, 0⟩ := by decide
/-- L2-CTL rows 9, 11, 12, 13 and 15. -/
theorem test_wrreg_ctrl_and_errors :
    view (·.ctrl) (exec (.wrreg 2 5) State.reset) = some ⟨.filter, .sat, .ident⟩ ∧
    lastResponse (exec (.wrreg 2 9) State.reset) = some ⟨6, 0⟩ ∧
    lastResponse (exec (.wrreg 2 0x10) State.reset) = some ⟨6, 0⟩ ∧
    lastResponse (exec (.wrreg 0 0) State.reset) = some ⟨3, 0⟩ ∧
    lastResponse (exec (.wrreg 0xFFF 0) State.reset) = some ⟨2, 0⟩ := by decide
/-- L2-CTL's STATUS example: 0x514, write 0x10, gives 0x4. -/
theorem test_wrreg_status :
    statusAfter (exec (.wrreg 3 0x10) { State.reset with clip := true, cerr := true, ccode := 5 }) = some 0x00000004 :=
  by decide
/-- L1-1: TBL[2] = 1.0 is read as such. -/
theorem test_rdtbl : lastResponse (exec (.rdtbl 2) synRun) = some ⟨0, 0x0000000001000000⟩ := by decide
/-- L2-TBL: a negative entry is sign-extended. -/
theorem test_rdtbl_sign : lastResponse (exec (.rdtbl 1) synRun) = some ⟨0, 0xFFFFFFFF80000000⟩ := by decide
/-- L2-TBL: entry 4095. -/
theorem test_wrtbl : view (·.tbl) (exec (.wrtbl 4095 0x80000000) State.reset) = some [(4095, 0x80000000)] := by decide
/-- L2-TBL: BAD_STATE in RUN. -/
theorem test_wrtbl_run : lastResponse (exec (.wrtbl 0 1) synRun) = some ⟨4, 0⟩ := by decide
/-- L2-COEF. -/
theorem test_rdcb : lastResponse (exec (.rdcb 1) fltRun) = some ⟨0, 0x00800000⟩ ∧
    lastResponse (exec (.rdcb 63) fltRun) = some ⟨0, 0⟩ ∧ lastResponse (exec (.rdcb 64) fltRun) = some ⟨2, 0⟩ :=
  by decide
/-- L2-COEF: BAD_INDEX comes before BAD_STATE. -/
theorem test_wrcb : view (fun s => Bank.read s.b 1) (exec (.wrcb 1 0x00800000) State.reset) = some 0x00800000 ∧
    lastResponse (exec (.wrcb 70 1) fltRun) = some ⟨2, 0⟩ ∧ lastResponse (exec (.wrcb 0 1) fltRun) = some ⟨4, 0⟩ :=
  by decide
/-- L2-COEF: `q(-0.5)` is sign-extended. -/
theorem test_rdca :
    lastResponse (exec (.rdca 1) { fltRun with a := bankOf [0, 0xFF800000] }) = some ⟨0, 0xFFFFFFFFFF800000⟩ := by decide
/-- L2-COEF. -/
theorem test_wrca : view (fun s => (Bank.read s.a 1, Bank.read s.b 1)) (exec (.wrca 1 0xFF800000) State.reset) =
    some (0xFF800000, 0) := by decide
/-- L1-4. -/
theorem test_rdhx :
    lastResponse (exec (.rdhx 0) { fltRun with x := bankOf [0xFFF5, 9] }) = some ⟨0, 0xFFFFFFFFFFFFFFF5⟩ ∧
    lastResponse (exec (.rdhx 64) fltRun) = some ⟨2, 0⟩ := by decide
/-- P3 row 14. -/
theorem test_rdhy : lastResponse (exec (.rdhy 0) { fltRun with y := bankOf [0xFF9976000000] }) =
    some ⟨0, 0xFFFFFF9976000000⟩ := by decide
/-- L2-START: 44100 Hz, 22050 Hz fails with F_NYQUIST; the first failing check wins. -/
theorem test_start_fails :
    lastResponse (exec .start { State.reset with cfgFs := 44100, cfgF := 22050, cfgT := 256 }) = some ⟨7, 3⟩ ∧
    statusAfter (exec .start { State.reset with cfgFs := 7999, cfgT := 0 }) = some 0x00001002 := by decide
/-- L2-START: N = 64 passes in FILTER mode. -/
theorem test_start_ok :
    statusAfter (exec .start { State.reset with ctrl := ⟨.filter, .sat, .negabs⟩, cfgFs := 48000, cfgN := 64 }) =
      some 0x00000001 := by decide
/-- L2-SYN, corner table, index 1 (`n` = 1): NEGABS under SAT and WRAP; CLIP. -/
theorem test_syn_clip :
    lastResponse (exec .syn { synRun with n := 1 }) = some ⟨0, 0xFFFFFFFFFFFF8000⟩ ∧
    lastResponse (exec .syn { synRun with n := 1, ctrl := ⟨.synth, .wrap, .negabs⟩ }) = some ⟨0, 128⟩ ∧
    statusAfter (exec .syn { synRun with n := 1 }) = some 0x00000005 := by decide
/-- L2-PA: the index at `n` = 2^64 - 1 is 233, and `n` wraps to 0. -/
theorem test_syn_wrap :
    view (fun s => (s.paIdx, s.n)) (exec .syn { synRun with n := 0xFFFFFFFFFFFFFFFF, cfgFs := 44100, cfgF := 1000, cfgT := 256 }) =
      some (233, 0) := by decide
/-- P2 rows 9 and 11: the impulse, then 0: Y[0] is 0.5 and the sample is 0. -/
theorem test_flt_impulse :
    view (fun s => (Bank.read s.y 0, Bank.read s.y 1)) (exec (.flt 0) { fltRun with x := bankOf [1], y := bankOf [0x01000000] }) =
      some (0x00800000, 0x01000000) ∧
    lastResponse (exec (.flt 0) { fltRun with x := bankOf [1], y := bankOf [0x01000000] }) = some ⟨0, 0⟩ := by decide
/-- L2-FLT: the sum's floor is seen in Y[0]; and saturation of Y[0] sets YSAT with CLIP (STATUS 0xD). -/
theorem test_flt_floor_and_saturation :
    view (fun s => Bank.read s.y 0)
      (exec (.flt 0) { fltRun with b := bankOf [1], a := bankOf [0, 1], x := bankOf [1], y := bankOf [1] }) =
        some 0xFFFFFFFFFFFF ∧
    statusAfter (exec (.flt 0)
      { fltRun with b := bankOf [0x01000000], a := bankOf [0, 0x81000000], y := bankOf [0x3F7F81000000] }) =
        some 0x0000000D := by decide
/-- R300, R303: a reset during a SYN leaves the reset state and no response. -/
theorem test_reset_during :
    view (fun s => (s.st, s.n, s.cfgFs, s.responses)) (step { synRun with inputs := [.resetDuring 0xC0000000] }) =
      some (.config, 0, 0, []) := by decide
/-- The canonical form: writing 0 over the only entry leaves the reset table. -/
theorem test_wrtbl_blank : view (·.tbl) (exec (.wrtbl 7 0) { State.reset with tbl := [(7, 5)] }) = some [] := by decide
/-- The reset table is in the canonical form. -/
theorem test_reset_table_wf : Memory.wf State.reset.tbl := Memory.wf_reset

/-! ### Witnesses: concrete states and operands that meet the hypotheses of each obligation that has some -/

/-- `synRun` and `fltRun` with CLIP, YSAT and CERR set. -/
def flagged (s : State) : State := { s with clip := true, ysat := true, cerr := true, ccode := 4 }

/-- `fltRun` with N = 64, and with N = 1. -/
def fltRunOf (len : RegWord) : State := { fltRun with cfgN := len }

theorem synRun_inv : StateInv synRun where
  tbl_wf := by decide
  run_rate := by decide
  run_synth := by decide
  run_filter := by decide
  tail_zero := by intro _ h; exact absurd h (by decide)
  phase_zero := by decide
  history_zero := by intro _; exact ⟨rfl, rfl, rfl⟩
  clip_run := by decide
  fault_code := by decide
  error_code := by decide
  responses_legal := by decide

theorem fltRun_inv : StateInv fltRun where
  tbl_wf := by decide
  run_rate := by decide
  run_synth := by decide
  run_filter := by decide
  tail_zero := by intro _ _ i _ _; exact ⟨Bank.read_replicate i, Bank.read_replicate i⟩
  phase_zero := by decide
  history_zero := by intro h; exact absurd ⟨rfl, rfl⟩ h
  clip_run := by decide
  fault_code := by decide
  error_code := by decide
  responses_legal := by decide

theorem faulted_inv : StateInv faulted where
  tbl_wf := by decide
  run_rate := by decide
  run_synth := by decide
  run_filter := by decide
  tail_zero := by intro h; exact absurd h (by decide)
  phase_zero := by decide
  history_zero := by intro _; exact ⟨rfl, rfl, rfl⟩
  clip_run := by decide
  fault_code := by decide
  error_code := by decide
  responses_legal := by decide

theorem startReady_inv : StateInv startReady where
  tbl_wf := by decide
  run_rate := by decide
  run_synth := by decide
  run_filter := by decide
  tail_zero := by intro h; exact absurd h (by decide)
  phase_zero := by decide
  history_zero := by intro _; exact ⟨rfl, rfl, rfl⟩
  clip_run := by decide
  fault_code := by decide
  error_code := by decide
  responses_legal := by decide

/-- O2. -/
theorem witness_DecodedWordIsTheCommandsWord : decode 0x00001F4020040000 = .ok (.wrreg 4 8000) := by decide
/-- O3: a word per row of each format, a reserved opcode, and both errors of the last clause. -/
theorem witness_OpcodeMapDecidesDecoding :
    (0x0000000010030000#64 &&& 0xFFFFFFFFF000FFFF#64 = 0x0000000010000000#64) ∧
    (0xFFFFFFFF4FFF0000#64 &&& 0x00000000F000FFFF#64 = 0x0000000040000000#64) ∧
    (0x00000000D000FFFF#64 &&& 0xFFFFFFFFFFFF0000#64 = 0x00000000D0000000#64) ∧
    decode 0x00000000F0000000 = .error .reservedOpcode ∧ decode 0x0000000000000001 = .error .reservedField := by decide
/-- O4: each of the five ways to be illegal, at a single bit where a field decides it. -/
theorem witness_ReservedWordEndsIllegal :
    { State.reset with inputs := [.command 0xE0000000, .reset] }.inputs = .command 0xE0000000 :: [.reset] ∧
    (0xE0000000#64).extractLsb' 28 4 ∈ [0xE#4, 0xF#4] ∧
    ((0xC0000001#64).extractLsb' 28 4 ∈ [0x0#4, 0xB#4, 0xC#4] ∧ (0xC0000001#64).extractLsb' 0 16 ≠ 0#16) ∧
    ((0x0000000110000000#64).extractLsb' 28 4 ∈ [0x1#4, 0x3#4, 0x5#4, 0x7#4, 0x9#4, 0xA#4] ∧
      (0x0000000110000000#64).extractLsb' 32 32 ≠ 0#32) ∧
    ((0x20008000#64).extractLsb' 28 4 ∈ [0x2#4, 0x4#4, 0x6#4, 0x8#4] ∧ (0x20008000#64).extractLsb' 0 16 ≠ 0#16) ∧
    ((0xD8000000#64).extractLsb' 28 4 = 0xD#4 ∧ (0xD8000000#64).extractLsb' 16 12 ≠ 0#12) := by decide
/-- O6. -/
theorem witness_StepPerformsTheDecodedCommand :
    { synRun with inputs := [.command 0xC0000000] }.inputs = .command 0xC0000000 :: [] ∧
    decode 0xC0000000 = .ok .syn := by decide
/-- O7. -/
theorem witness_IdleBlockHoldsItsState : synRun.inputs = [] := by decide
/-- O8: a response of code 4, one of code 7, and a successful write. -/
theorem witness_EveryCommandGivesOneResponse :
    lastResponse (step { synRun with inputs := [.command 0xB0000000] }) = some ⟨4, 0⟩ ∧
    lastResponse (step { State.reset with inputs := [.command 0xB0000000] }) = some ⟨7, 1⟩ ∧
    lastResponse (step { State.reset with inputs := [.command 0x00001F4020040000] }) = some ⟨0, 0⟩ ∧
    decode 0x00001F4020040000 = .ok (.wrreg 4 8000) := by decide
/-- O9: both events of the first clause, and a reset that leaves RUN and one that leaves FAULT. -/
theorem witness_ResetPutsEveryElement :
    { synRun with inputs := [.reset] }.inputs = .reset :: [] ∧
    { fltRun with inputs := [.resetDuring 0xD0000001] }.inputs = .resetDuring 0xD0000001 :: [] ∧
    view (·.st) (step { synRun with inputs := [.reset] }) = some .config ∧ synRun.st = .run ∧
    view (·.st) (step { faulted with inputs := [.reset] }) = some .config ∧ faulted.st = .fault := by decide
/-- O10: a START that passes and one that fails, each changing ST. -/
theorem witness_OperatingStateMoves :
    State.reset.st = .config ∧ view (·.st) (exec .start State.reset) = some .fault ∧
    view (·.st) (exec .start { State.reset with cfgFs := 16000, cfgT := 1 }) = some .run := by decide
/-- O11: the greatest legal value, the least illegal one, and RUN. -/
theorem witness_CtrlStoresLegalValuesExactly :
    State.reset.st = .config ∧ (7#32).toNat < 8 ∧ 8 ≤ (8#32).toNat ∧ synRun.st ≠ .config := by decide
/-- O13: the least address with no register. -/
theorem witness_RdregReadsTheRegister : 0x00A < (0x00B : Index).toNat ∧ 0x00A < (0xFFF : Index).toNat := by decide
/-- O14. -/
theorem witness_WrregStoresConfiguration : State.reset.st = .config ∧ faulted.st ≠ .config := by decide
/-- O15: each read-only address, the least address with no register, and a command that is not SYN. -/
theorem witness_WrregRefusesReadOnlyAndUnimplemented :
    (0x00A : Index).toNat ∈ [0x000, 0x001, 0x008, 0x009, 0x00A] ∧ 0x00B ≤ (0x00B : Index).toNat ∧
    view (·.n) (exec (.flt 1) fltRun) = some 0 ∧ Instr.flt 1 ≠ .syn := by decide
/-- O17: each clause at its boundary. -/
theorem witness_StartValidatesThenRunsOrFaults :
    synRun.st ≠ .config ∧ State.reset.st = .config ∧
    (0#32).toNat ∉ [8000, 16000, 24000, 32000, 44100, 48000, 96000] ∧
    (44100#32).toNat ∈ [8000, 16000, 24000, 32000, 44100, 48000, 96000] ∧
    State.reset.ctrl.mode = .synth ∧ (0#32).toNat = 0 ∧ 4096 < (4097#32).toNat ∧
    1 ≤ (1#32).toNat ∧ (4096#32).toNat ≤ 4096 ∧
    (44100#32).toNat ≤ 2 * (22050#32).toNat ∧ 2 * (22049#32).toNat < (44100#32).toNat ∧
    fltRun.ctrl.mode = .filter ∧ 64 < (65#32).toNat ∧ (64#32).toNat ≤ 64 := by decide
/-- O18. -/
theorem witness_StartBeginsWithZeroPhaseAndHistory :
    StateInv startReady ∧ startReady.st = .config ∧ ∃ t, exec .start startReady = .next t ∧ t.st = .run :=
  ⟨startReady_inv, rfl, _, rfl, rfl⟩
/-- O19: CFG_FS at 0, the rule's three configurations with T at both ends, and RUN and FAULT. -/
theorem witness_StartCornerCases :
    State.reset.st = .config ∧ State.reset.cfgFs = 0 ∧ State.reset.ctrl.mode = .synth ∧
    1 ≤ (1#32).toNat ∧ (4096#32).toNat ≤ 4096 ∧
    (96000#32).toNat ∈ [8000, 16000, 24000, 32000, 44100, 48000, 96000] ∧ synRun.st = .run ∧ faulted.st = .fault := by
  decide
/-- O21. -/
theorem witness_WrtblStoresOneEntry :
    State.reset.st = .config ∧ synRun.st ≠ .config ∧ (0 : Nat) ≠ (4095 : Index).toNat := by decide
/-- O22: two tables built by different writes that read alike. -/
theorem witness_TablesThatReadAlikeAreEqual :
    Memory.wf (Memory.write (Memory.write [] 4095 7) 0 5) ∧ Memory.wf (Memory.write (Memory.write [] 0 5) 4095 7) ∧
    ∀ i < 4096, Memory.read (Memory.write (Memory.write [] 4095 7) 0 5) i =
      Memory.read (Memory.write (Memory.write [] 0 5) 4095 7) i :=
  ⟨by decide, by decide, fun i _ => by rw [show Memory.write (Memory.write [] 4095 7) 0 5 =
    Memory.write (Memory.write [] 0 5) 4095 7 by decide]⟩
/-- O23: both clauses' states, with T at both ends of its range. -/
theorem witness_SynProducesOneSample :
    synRun.st = .run ∧ synRun.ctrl.mode = .synth ∧ synRun.cfgFs.toNat ≠ 0 ∧ 1 ≤ synRun.cfgT.toNat ∧
    synRun.cfgT.toNat ≤ 4096 ∧ 1 ≤ (4096#32).toNat ∧ (4096#32).toNat ≤ 4096 ∧
    faulted.st ≠ .run ∧ fltRun.st = .run ∧ fltRun.ctrl.mode = .filter := by decide
/-- O24. -/
theorem witness_SynIndexStaysInTheTable : StateInv synRun ∧ synRun.st = .run ∧ synRun.ctrl.mode = .synth :=
  ⟨synRun_inv, rfl, rfl⟩
/-- O25: L1-3's numbers for the first three clauses. -/
theorem witness_IndexSequenceIsPeriodic :
    0 < 8000 ∧ 0 < 256 ∧ 2048 * 1000 = 256 * 8000 ∧ 44100 * 1000 = 1000 * 44100 ∧ 8 * 1000 = 8000 ∧ 0 < 7 ∧ 7 < 8 := by
  decide
/-- O26: 44100 Hz, 1000 Hz and T = 256 at n = 3, where the quotient is 17 and the remainder 18300; the last `n` before
the wrap and the `n` at it. -/
theorem witness_IncrementalPhaseYieldsTheSameIndex :
    { synRun with n := 3, cfgFs := 44100, cfgF := 1000, cfgT := 256 }.st = .run ∧
    { synRun with n := 3, cfgFs := 44100, cfgF := 1000, cfgT := 256 }.ctrl.mode = .synth ∧
    view (·.paIdx) (exec .syn { synRun with n := 3, cfgFs := 44100, cfgF := 1000, cfgT := 256 }) = some 17 ∧
    17 = (3#64).toNat * (1000#32).toNat * (256#32).toNat / (44100#32).toNat ∧
    18300 = (3#64).toNat * (1000#32).toNat * (256#32).toNat % (44100#32).toNat ∧
    (0xFFFFFFFFFFFFFFFE#64).toNat + 1 < 2 ^ 64 ∧ (0xFFFFFFFFFFFFFFFF#64).toNat + 1 = 2 ^ 64 ∧
    view (·.n) (exec .syn { synRun with n := 0xFFFFFFFFFFFFFFFF }) = some 0 := by decide
/-- `synRun` with a table of unit amplitude, its entries -1.0, 0, 1.0 and 0, under a policy. -/
def unitRun (o : Ovf) : State :=
  { synRun with ctrl := ⟨.synth, o, .negabs⟩, tbl := [(0, 0xFF000000), (2, 0x01000000)] }
/-- O27: under SAT with a table that is not of unit amplitude, and under both policies with one that is. -/
theorem witness_NegabsOutputsAreNeverPositive :
    (synRun.st = .run ∧ synRun.ctrl.mode = .synth ∧ synRun.ctrl.shape = .negabs ∧ synRun.ctrl.ovf = .sat ∧
      synRun.cfgFs.toNat ≠ 0 ∧ 1 ≤ synRun.cfgT.toNat ∧ synRun.cfgT.toNat ≤ 4096 ∧
      lastResponse (exec .syn synRun) = some ⟨0, 0xFFFFFFFFFFFFC001⟩) ∧ ¬UnitAmplitude synRun ∧
    (∀ o, (unitRun o).st = .run ∧ (unitRun o).ctrl.mode = .synth ∧ (unitRun o).ctrl.shape = .negabs ∧
      (unitRun o).ctrl.ovf = o ∧ (unitRun o).cfgFs.toNat ≠ 0 ∧ 1 ≤ (unitRun o).cfgT.toNat ∧
      (unitRun o).cfgT.toNat ≤ 4096 ∧ UnitAmplitude (unitRun o) ∧
      lastResponse (exec .syn (unitRun o)) = some ⟨0, 0xFFFFFFFFFFFF8001⟩) := by
  refine ⟨by decide, by unfold UnitAmplitude; decide, ?_⟩
  intro o
  cases o <;> unfold UnitAmplitude <;> decide
/-- O28: the last entry and the first index beyond. -/
theorem witness_FileReadsAnswerTheEntry : (63 : Index).toNat < 64 ∧ 64 ≤ (64 : Index).toNat := by decide
/-- O29: the last entry and the first index beyond, in CONFIG and in RUN. -/
theorem witness_CoefficientWritesStoreOneEntry :
    (63 : Index).toNat < 64 ∧ 64 ≤ (64 : Index).toNat ∧ State.reset.st = .config ∧ fltRun.st ≠ .config := by
  decide
/-- O30: the shortest and the longest history. -/
theorem witness_PushShiftsTheHistory : 1 ≤ 1 ∧ 1 ≤ 64 ∧ 64 ≤ 64 ∧ 63 < 64 := by decide
/-- O31: N = 2 and N = 64, and the two errors' states. -/
theorem witness_FltProducesOneSample :
    fltRun.st = .run ∧ fltRun.ctrl.mode = .filter ∧ fltRun.cfgN.toNat ≤ 64 ∧ (fltRunOf 64).cfgN.toNat ≤ 64 ∧
    State.reset.st ≠ .run ∧ synRun.st = .run ∧ synRun.ctrl.mode = .synth := by decide
/-- O32: the longest sum. -/
theorem witness_FilterSumFitsTheAccumulator : 64 ≤ 64 := by decide
/-- O33: a FLT that answers. -/
theorem witness_FeedbackIgnoresTheFirstCoefficient : lastResponse (exec (.flt 1) fltRun) = some ⟨0, 1⟩ := by decide
/-- O34: N = 2, with fewer samples than N and with more; and an entry beyond N. -/
theorem witness_HistoriesHoldTheMostRecentValues :
    fltRun.st = .run ∧ fltRun.ctrl.mode = .filter ∧ 1 ≤ fltRun.cfgN.toNat ∧ fltRun.cfgN.toNat ≤ 64 ∧
    1 < fltRun.cfgN.toNat ∧ [5#16].length ≤ 1 ∧ 1 < [5#16, 0xFFFD, 7].length ∧ fltRun.cfgN.toNat ≤ 2 ∧ 2 < 64 :=
  by decide
/-- O35. -/
theorem witness_IdentityFilterReturnsItsInput :
    (fltRunOf 1).st = .run ∧ (fltRunOf 1).ctrl.mode = .filter ∧ (fltRunOf 1).cfgN = 1 ∧
    Bank.read (fltRunOf 1).b 0 = 0x01000000 ∧
    lastResponse (exec (.flt 0x8000) (fltRunOf 1)) = some ⟨0, 0xFFFFFFFFFFFF8000⟩ := by decide
/-- O37: each law at its boundary. -/
theorem witness_ConvertLaws :
    (-32768 : Int) ≤ -32768 ∧ (-32768 : Int) ≤ 32767 ∧ (3 : Int) ≤ 4 ∧
    (-32767 : Int) ≤ Int.tdiv (-32767 * 2 ^ 24 - 1) (2 ^ 24) ∧ Int.tdiv (-32767 * 2 ^ 24 - 1) (2 ^ 24) ≤ 32767 ∧
    -2 ^ 24 < (-16777215 : Int) ∧ (-16777215 : Int) < 2 ^ 24 ∧ -2 ^ 24 < (16777215 : Int) ∧ (16777215 : Int) < 2 ^ 24 :=
  by decide
/-- O39: the least and the greatest error code, and CONFIG_FAULT. -/
theorem witness_ErrorsArePrecise :
    lastResponse (performWord 0x1 synRun) = some ⟨1, 0⟩ ∧
    lastResponse (performWord 0x0000000820020000 State.reset) = some ⟨6, 0⟩ ∧
    lastResponse (performWord 0xB0000000 State.reset) = some ⟨7, 1⟩ := by decide
/-- O40: a word that answers in each operating state, and one that does not decode. -/
theorem witness_ResponseCodeFollowsTheLegalityTable :
    lastResponse (performWord 0xC0000000 State.reset) = some ⟨4, 0⟩ ∧
    lastResponse (performWord 0xC0000000 fltRun) = some ⟨5, 0⟩ ∧
    lastResponse (performWord 0x90400000 faulted) = some ⟨2, 0⟩ ∧
    lastResponse (performWord 0xC0010000 synRun) = some ⟨1, 0⟩ := by decide
/-- O41: each listed change happens in RUN by its own command, a clear happens in FAULT, and the indices of its second
clause. -/
theorem witness_ConfigurationIsImmutableAfterStart :
    synRun.st ≠ .config ∧ view (·.n) (exec .syn synRun) = some 1 ∧ synRun.n = 0 ∧
    view (fun s => Bank.read s.x 0) (exec (.flt 7) fltRun) = some 7 ∧ Bank.read fltRun.x 0 = 0 ∧
    synRun.clip = false ∧ view (·.clip) (exec .syn { synRun with n := 1 }) = some true ∧
    faulted.st ≠ .config ∧ view (·.cerr) (exec (.wrreg 3 0x10) (flagged faulted)) = some false ∧
    (63 : Index).toNat < 64 ∧ (7 : Index).toNat ∈ [2, 4, 5, 6, 7] := by decide
/-- O42: a command that answers, and changes an element. -/
theorem witness_EveryElementChangesByItsOwnCommandsOnly :
    view (fun t => Bank.read t.b 63) (exec (.wrcb 63 5) State.reset) = some 5 ∧ Bank.read State.reset.b 63 = 0 := by
  decide
/-- O43: a read that answers OK, each kind of write that does, and both ticks; an entry the shift moves. -/
theorem witness_ReadsHaveNoSideEffectAndWritesAreIdempotent :
    lastResponse (exec (.rdhx 63) fltRun) = some ⟨0, 0⟩ ∧ lastResponse (exec (.rdreg 3) synRun) = some ⟨0, 1⟩ ∧
    lastResponse (exec (.wrreg 3 0x1C) (flagged synRun)) = some ⟨0, 0⟩ ∧
    lastResponse (exec (.wrtbl 4095 1) State.reset) = some ⟨0, 0⟩ ∧
    lastResponse (exec (.wrca 0 1) State.reset) = some ⟨0, 0⟩ ∧
    lastResponse (exec .syn synRun) = some ⟨0, 0xFFFFFFFFFFFFC001⟩ ∧
    lastResponse (exec (.flt 1) fltRun) = some ⟨0, 1⟩ ∧ 1 < fltRun.cfgN.toNat := by decide
/-- O44: SYN answers, and so it does with every flag set. -/
theorem witness_FlagsDoNotAffectComputation :
    Instr.syn ≠ .rdreg 0x003 ∧ lastResponse (exec .syn synRun) = some ⟨0, 0xFFFFFFFFFFFFC001⟩ ∧
    lastResponse (exec .syn (flagged synRun)) = some ⟨0, 0xFFFFFFFFFFFFC001⟩ := by decide
/-- O45: a table that differs at T only, and files that differ at N only; both commands answer. -/
theorem witness_EntriesBeyondTheLengthsAffectNoOutput :
    ((∀ i < synRun.cfgT.toNat, Memory.read (Memory.write synRun.tbl 4 9) i = Memory.read synRun.tbl i) ∧
      Memory.read (Memory.write synRun.tbl 4 9) 4 ≠ Memory.read synRun.tbl 4 ∧
      lastResponse (exec .syn synRun) = some ⟨0, 0xFFFFFFFFFFFFC001⟩) ∧
    (1 ≤ fltRun.cfgN.toNat ∧ (∀ i < fltRun.cfgN.toNat,
      Bank.read (Bank.write fltRun.b 2 9) i = Bank.read fltRun.b i ∧
      Bank.read (Bank.write fltRun.a 2 9) i = Bank.read fltRun.a i ∧
      Bank.read (Bank.write fltRun.x 2 9) i = Bank.read fltRun.x i ∧
      Bank.read (Bank.write fltRun.y 2 9) i = Bank.read fltRun.y i) ∧
      lastResponse (exec (.flt 1) fltRun) = some ⟨0, 1⟩) := by decide
/-- O47: states of the invariant in each operating state and mode, each with a command to perform. -/
theorem witness_EveryStepKeepsTheInvariant :
    StateInv synRun ∧ StateInv fltRun ∧ StateInv faulted ∧ StateInv startReady ∧
    view (·.st) (step startReady) = some .run ∧ view (·.st) (step faulted) = some .fault :=
  ⟨synRun_inv, fltRun_inv, faulted_inv, startReady_inv, rfl, rfl⟩
/-- O48: states of the invariant in each operating state. -/
theorem witness_MachineNeverStops : StateInv startReady ∧ StateInv synRun ∧ StateInv fltRun ∧ StateInv faulted :=
  ⟨startReady_inv, synRun_inv, fltRun_inv, faulted_inv⟩
/-- O49: both engines' ticks. -/
theorem witness_ActiveTickAlwaysReturnsASample :
    (StateInv synRun ∧ synRun.st = .run ∧ ActiveTick synRun .syn) ∧
    (StateInv fltRun ∧ fltRun.st = .run ∧ ActiveTick fltRun (.flt 0x8000)) :=
  ⟨⟨synRun_inv, rfl, .inl ⟨rfl, rfl⟩⟩, ⟨fltRun_inv, rfl, .inr ⟨rfl, _, rfl⟩⟩⟩
/-- O50: a run from reset comes to RUN in SYNTH mode, and one in FILTER mode. -/
theorem witness_EveryRunStaysSafe :
    (∃ s, Reachable s ∧ s.st = .run ∧ s.ctrl.mode = .synth) ∧
    (∃ s, Reachable s ∧ s.st = .run ∧ s.ctrl.mode = .filter) := by
  refine ⟨⟨_, .next (.next (.next (.start [.command 0x00001F4020040000, .command 0x0000000820060000,
    .command 0xB0000000]) rfl) rfl) rfl, rfl, rfl⟩, ?_⟩
  exact ⟨_, .next (.next (.next (.next (.start [.command 0x0000000120020000, .command 0x00001F4020040000,
    .command 0x0000000220070000, .command 0xB0000000]) rfl) rfl) rfl) rfl, rfl, rfl⟩
/-- O51. -/
theorem witness_PlacedWordIsPerformedNext : decodeTableWord 64 0xD0007530 = some (.flt 30000) := by decide
/-- `fltRun` with no coefficient loaded, and `synRun` with no table loaded. -/
def fltEmpty : State := { fltRun with b := Vector.replicate 64 0 }
def synEmpty : State := { synRun with tbl := [] }
/-- O52: both files empty. -/
theorem witness_UnloadedFilesProduceZero :
    (StateInv synEmpty ∧ synEmpty.st = .run ∧ synEmpty.ctrl.mode = .synth ∧ TableLoaded synEmpty (fun _ => 0)) ∧
    (StateInv fltEmpty ∧ fltEmpty.st = .run ∧ fltEmpty.ctrl.mode = .filter ∧
      CoefficientsLoaded fltEmpty (fun _ => 0) (fun _ => 0)) :=
  ⟨⟨⟨by decide, by decide, by decide, by decide, synRun_inv.tail_zero, by decide, synRun_inv.history_zero, by decide,
      by decide, by decide, by decide⟩, rfl, rfl, fun _ _ => rfl⟩,
    ⟨⟨by decide, by decide, by decide, by decide, fltRun_inv.tail_zero, by decide, fltRun_inv.history_zero, by decide,
      by decide, by decide, by decide⟩, rfl, rfl, fun i _ => Bank.read_replicate i, fun i _ _ => Bank.read_replicate i⟩⟩

end Sys2Proof.Tests
end

section
/-! Rules for the operating-state guards and for one command at a time: what a guard leaves of a command's body, and
how `OkWith` and `ErrWith` come from an answered response. -/

namespace Sys2Proof.Machine

open Sys2Proof.Safety

theorem inConfig_of_config {s : State} (hs : s.st = .config) (body : Host.Outcome State Fault Refusal) :
    inConfig s body = body := if_pos hs

theorem inConfig_of_not_config {s : State} (hs : s.st ≠ .config) (body : Host.Outcome State Fault Refusal) :
    inConfig s body = raiseErr .badState s := if_neg hs

theorem withEntry_of_lt {i : Nat} (hi : i < 64) (s : State) (body : Host.Outcome State Fault Refusal) :
    withEntry i s body = body := if_pos hi

theorem okWith_of_respond {i : Instr} {s u : State} {d : RespData} (h : exec i s = respond .ok d u) :
    OkWith i s d u := h

theorem errWith_of_raiseErr {i : Instr} {s : State} {c : RCode} (h : exec i s = raiseErr c s) :
    ErrWith i s c.bits := h

/-- Only OK has the response code 0 (R261). -/
theorem RCode.bits_eq_zero_iff (c : RCode) : c.bits = 0 ↔ c = .ok := by cases c <;> decide

/-- An address with a register is that register's address (R34). -/
theorem eq_of_registerAt {a : Index} {r : RegName} (h : registerAt a = some r) : a = BitVec.ofNat 12 r.addr := by
  rw [← registerAt_some a r h, BitVec.ofNat_toNat, BitVec.setWidth_eq]

/-- RDREG of an implemented address answers the register and changes nothing (R121). -/
theorem okWith_rdreg {a : Index} {r : RegName} (h : registerAt a = some r) (s : State) :
    OkWith (.rdreg a) s (widenRegister (readRegister r s)) s :=
  okWith_of_respond (by simp only [exec, execRdreg, h])

/-- STATUS.STATE of the answered data is `ST` (R33, R38). -/
theorem widenRegister_statusWord_state (s : State) : (widenRegister (statusWord s)).extractLsb' 0 2 = s.st.bits := by
  apply BitVec.eq_of_getLsbD_eq
  intro i hi
  simp only [widenRegister, statusWord, BitVec.getLsbD_extractLsb', BitVec.getLsbD_setWidth, BitVec.getLsbD_append]
  simp [hi, show i < 64 by omega]

/-- A START in CONFIG that passes validation goes to RUN (R133). -/
theorem execStart_of_valid {s : State} (hs : s.st = .config) (hv : validate s = 0) :
    execStart s = respond .ok 0 { s with st := .run } := by
  rw [execStart, inConfig_of_config hs, if_pos hv]

/-- A START in CONFIG that fails validation goes to FAULT with the fault code (R134). -/
theorem execStart_of_invalid {s : State} (hs : s.st = .config) (hv : validate s ≠ 0) :
    execStart s =
      respond .configFault ((validate s).setWidth 64) { s with st := .fault, fcode := validate s } := by
  rw [execStart, inConfig_of_config hs, if_neg hv]

/-- A reset between commands leaves the reset state (R300). -/
theorem step_of_reset {s : State} {rest : List HostEvent} (h : s.inputs = .reset :: rest) :
    step s = .next (applyReset (acceptEvent s)) := by
  unfold step; rw [h]; rfl

end Sys2Proof.Machine
end

section
/-! What a command can do to the operating state, and all it can do outside CONFIG. -/

namespace Sys2Proof.Machine

open Sys2Proof.Safety

/-- Only START moves the operating state, and only from CONFIG (R33). -/
theorem Effect.st_eq_or_start {i : Instr} {s t : State} (he : Effect i s t) :
    t.st = s.st ∨ (i = .start ∧ s.st = .config) := by
  cases he with
  | startOk _ hs | startFails _ hs => exact .inr ⟨rfl, hs⟩
  | _ => exact .inl rfl

/-- All that a command can leave outside CONFIG (R52): a read or NOP answers, a write or any other error takes the
error path, STATUS is cleared, or in RUN a tick is performed. -/
inductive LockedEffect (s : State) : Instr → State → Prop where
  | answered (i : Instr) (d : RespData) : LockedEffect s i (addResponse .ok d s)
  | failed (i : Instr) (c : RCode) (hc : c ≠ .ok) : LockedEffect s i (failed c s)
  | cleared (v : RegWord) : LockedEffect s (.wrreg 0x003 v) (addResponse .ok 0 (clearStatus v s))
  | syn (d : RespData) (out : Bool) (hs : s.st = .run) :
      LockedEffect s .syn (addResponse .ok d (noteClip out (advancePhase (synIndex s) s)))
  | flt (smp : SampleWord) (d : RespData) (out : Bool) (hs : s.st = .run) :
      LockedEffect s (.flt smp) (addResponse .ok d (noteClip out (storeOutput (pushSample smp s))))

theorem Effect.locked {i : Instr} {s t : State} (he : Effect i s t) (hl : s.st ≠ .config) : LockedEffect s i t := by
  cases he with
  | nop | rdreg | rdtbl | rdcb | rdca | rdhx | rdhy => exact .answered _ _
  | wrregStatus _ _ v ha => rw [eq_of_registerAt ha]; exact .cleared v
  | wrregCtrl | wrregValue | wrregFs | wrregF | wrregT | wrregN | wrtbl | wrcb | wrca | startOk | startFails =>
    contradiction
  | syn _ hs => exact .syn _ _ hs
  | flt _ smp hs => exact .flt smp _ _ hs
  | _ => exact .failed _ _ (by decide)

/-- What a command leaves outside CONFIG. -/
theorem exec_locked {i : Instr} {s t : State} (h : exec i s = .next t) (hl : s.st ≠ .config) : LockedEffect s i t :=
  (exec_effect h).locked hl

namespace LockedEffect

variable {i : Instr} {s t : State}

/-- No command unlocks: the configuration, the table, the coefficients, ST and FCODE stay (R33, R52). -/
theorem keeps_configuration (he : LockedEffect s i t) :
    (t.ctrl = s.ctrl ∧ t.cfgFs = s.cfgFs ∧ t.cfgF = s.cfgF ∧ t.cfgT = s.cfgT ∧ t.cfgN = s.cfgN ∧
      t.tbl = s.tbl ∧ t.b = s.b ∧ t.a = s.a) ∧ t.st = s.st ∧ t.fcode = s.fcode := by
  cases he <;> exact ⟨⟨rfl, rfl, rfl, rfl, rfl, rfl, rfl, rfl⟩, rfl, rfl⟩

/-- Only SYN, in RUN, moves the phase accumulator (R43, R44). -/
theorem phase_moved (he : LockedEffect s i t) (h : t.n ≠ s.n ∨ t.paIdx ≠ s.paIdx) : s.st = .run ∧ i = .syn := by
  cases he with
  | syn _ _ hs => exact ⟨hs, rfl⟩
  | _ => simp at h

/-- Only FLT, in RUN, moves the histories and sets YSAT (R47, R48, R244). -/
theorem history_moved (he : LockedEffect s i t)
    (h : t.x ≠ s.x ∨ t.y ≠ s.y ∨ (s.ysat = false ∧ t.ysat = true)) : s.st = .run ∧ ∃ v, i = .flt v := by
  cases he with
  | flt smp _ _ hs => exact ⟨hs, smp, rfl⟩
  | _ => obtain hx | hy | ⟨hbefore, hafter⟩ := h <;> simp_all

/-- Only a tick, in RUN, sets CLIP (R243). -/
theorem clip_set (he : LockedEffect s i t) (h : s.clip = false ∧ t.clip = true) :
    s.st = .run ∧ (i = .syn ∨ ∃ v, i = .flt v) := by
  obtain ⟨hbefore, hafter⟩ := h
  cases he with
  | syn _ _ hs => exact ⟨hs, .inl rfl⟩
  | flt smp _ _ hs => exact ⟨hs, .inr ⟨smp, rfl⟩⟩
  | _ => simp_all

/-- Only a write of STATUS clears a flag (R38, R124). -/
theorem flag_cleared (he : LockedEffect s i t)
    (h : (s.clip = true ∧ t.clip = false) ∨ (s.ysat = true ∧ t.ysat = false) ∨ (s.cerr = true ∧ t.cerr = false)) :
    ∃ v, i = .wrreg 0x003 v := by
  cases he with
  | cleared v => exact ⟨v, rfl⟩
  | _ => obtain ⟨hbefore, hafter⟩ | ⟨hbefore, hafter⟩ | ⟨hbefore, hafter⟩ := h <;> simp_all

/-- CERR and CCODE change by a write of STATUS, or by an error, whose code CCODE and the response then hold (R262). -/
theorem error_moved (he : LockedEffect s i t) (h : t.cerr ≠ s.cerr ∨ t.ccode ≠ s.ccode) :
    (∃ v, i = .wrreg 0x003 v) ∨
      (t.cerr = true ∧ t.ccode ≠ 0 ∧ t.responses = s.responses ++ [⟨t.ccode, 0⟩]) := by
  cases he with
  | failed _ c hc => exact .inr ⟨rfl, mt c.bits_eq_zero_iff.1 hc, rfl⟩
  | cleared v => exact .inl ⟨v, rfl⟩
  | _ => simp at h

end LockedEffect

end Sys2Proof.Machine
end

section
/-! Outside CONFIG a command that would write the configuration, the table or a coefficient fails with BAD_STATE. -/

namespace Sys2Proof.Machine

open Sys2Proof.Safety

variable {s : State} {idx : Index}

theorem errWith_wrtbl_of_not_config (hs : s.st ≠ .config) (v : RegWord) : ErrWith (.wrtbl idx v) s 4 :=
  errWith_of_raiseErr (c := .badState) (inConfig_of_not_config hs _)

theorem errWith_wrcb_of_not_config (hs : s.st ≠ .config) (hi : idx.toNat < 64) (v : RegWord) :
    ErrWith (.wrcb idx v) s 4 :=
  errWith_of_raiseErr (c := .badState) ((withEntry_of_lt hi _ _).trans (inConfig_of_not_config hs _))

theorem errWith_wrca_of_not_config (hs : s.st ≠ .config) (hi : idx.toNat < 64) (v : RegWord) :
    ErrWith (.wrca idx v) s 4 :=
  errWith_of_raiseErr (c := .badState) ((withEntry_of_lt hi _ _).trans (inConfig_of_not_config hs _))

theorem errWith_wrreg_of_not_config (hs : s.st ≠ .config) {r : RegName} (ha : registerAt idx = some r)
    (hr : r = .ctrl ∨ r = .cfgFs ∨ r = .cfgF ∨ r = .cfgT ∨ r = .cfgN) (v : RegWord) : ErrWith (.wrreg idx v) s 4 := by
  refine errWith_of_raiseErr (c := .badState) ?_
  obtain rfl | rfl | rfl | rfl | rfl := hr <;> simp only [exec, execWrreg, ha, inConfig_of_not_config hs]

/-- Addresses 2 and 4 to 7 are the registers a WRREG may write in CONFIG only (R34). -/
theorem registerAt_configuration (h : idx.toNat ∈ [2, 4, 5, 6, 7]) :
    ∃ r, registerAt idx = some r ∧ (r = .ctrl ∨ r = .cfgFs ∨ r = .cfgF ∨ r = .cfgT ∨ r = .cfgN) := by
  simp only [List.mem_cons, List.not_mem_nil, or_false] at h
  obtain h | h | h | h | h := h
  · exact ⟨.ctrl, registerAt_addr idx .ctrl h, by simp⟩
  · exact ⟨.cfgFs, registerAt_addr idx .cfgFs h, by simp⟩
  · exact ⟨.cfgF, registerAt_addr idx .cfgF h, by simp⟩
  · exact ⟨.cfgT, registerAt_addr idx .cfgT h, by simp⟩
  · exact ⟨.cfgN, registerAt_addr idx .cfgN h, by simp⟩

end Sys2Proof.Machine
end

section
/-! The family of 10_state.md. -/

namespace Sys2Proof.Proofs

open Sys2Proof.Machine Sys2Proof.Safety

/-- Settles O10: ST moves by START in CONFIG only (`Effect.st_eq_or_start`) and by reset; STATUS.STATE reads it. -/
theorem operatingStateMoves : Obligations.OperatingStateMoves := by
  refine ⟨⟨rfl, rfl, rfl, fun st => by cases st <;> decide⟩, rfl, fun s hs => ?start, fun i s t h hne => ?moves,
    fun s rest h => ⟨_, step_of_reset h, rfl⟩,
    fun s => ⟨_, okWith_rdreg (r := .status) rfl s, widenRegister_statusWord_state s⟩⟩
  case start =>
    by_cases hv : validate s = 0
    · exact ⟨_, execStart_of_valid hs hv, .inl ⟨hv, rfl⟩⟩
    · exact ⟨_, execStart_of_invalid hs hv, .inr ⟨hv, rfl⟩⟩
  case moves => exact (exec_effect h).st_eq_or_start.resolve_left hne

/-- Settles O41: outside CONFIG every command has a `LockedEffect`, and each clause is read off it; the writes fail at
the guard of R52. -/
theorem configurationIsImmutableAfterStart : Obligations.ConfigurationIsImmutableAfterStart := by
  refine ⟨fun i s t h hl => ?_, fun s idx v hs => ⟨errWith_wrtbl_of_not_config hs v,
    fun hi => ⟨errWith_wrcb_of_not_config hs hi v, errWith_wrca_of_not_config hs hi v⟩, fun ha => ?_⟩⟩
  · have he := exec_locked h hl
    obtain ⟨hconfiguration, hst⟩ := he.keeps_configuration
    exact ⟨hconfiguration, he.phase_moved, he.history_moved, he.clip_set, he.flag_cleared, he.error_moved, hst⟩
  · obtain ⟨r, hr, hconf⟩ := registerAt_configuration ha
    exact errWith_wrreg_of_not_config hs hr hconf v

end Sys2Proof.Proofs
end

section
/-! What a successful command tells of its response, and what a read, a write and a history push leave (R72, R76,
R210). -/

namespace Sys2Proof.Machine

open Sys2Proof.Safety

/-- The response that ends a command tells its code and its data. -/
theorem addResponse_eq_ok {c : RCode} {d d' : RespData} {s : State}
    (h : (addResponse c d' s).responses = s.responses ++ [⟨0, d⟩]) : c = .ok ∧ d' = d := by
  obtain ⟨hc, hd⟩ : c.bits = 0 ∧ d' = d := by simpa using h
  exact ⟨c.bits_eq_zero_iff.1 hc, hd⟩

/-- No error path answers OK (R262). -/
theorem failed_ne_ok {c : RCode} (hc : c ≠ .ok) (s : State) (d : RespData) :
    (failed c s).responses ≠ s.responses ++ [⟨0, d⟩] :=
  fun h => hc (addResponse_eq_ok (s := recordError c s) h).1

/-- A command that answers OK and leaves its state leaves the same block. -/
theorem sameBlock_of_okWith {i : Instr} {s t : State} {d : RespData} (hok : OkWith i s d s) (h : exec i s = .next t) :
    SameBlock s t := by
  rw [hok] at h; cases h; rfl

section Reads

variable {i : Index}

theorem okWith_rdtbl (s : State) : OkWith (.rdtbl i) s (widenEntry (Memory.read s.tbl i.toNat)) s :=
  okWith_of_respond rfl

theorem okWith_rdcb (hi : i.toNat < 64) (s : State) : OkWith (.rdcb i) s (widenEntry (Bank.read s.b i.toNat)) s :=
  okWith_of_respond (withEntry_of_lt hi _ _)

theorem okWith_rdca (hi : i.toNat < 64) (s : State) : OkWith (.rdca i) s (widenEntry (Bank.read s.a i.toNat)) s :=
  okWith_of_respond (withEntry_of_lt hi _ _)

theorem okWith_rdhx (hi : i.toNat < 64) (s : State) : OkWith (.rdhx i) s (widenEntry (Bank.read s.x i.toNat)) s :=
  okWith_of_respond (withEntry_of_lt hi _ _)

theorem okWith_rdhy (hi : i.toNat < 64) (s : State) : OkWith (.rdhy i) s (widenEntry (Bank.read s.y i.toNat)) s :=
  okWith_of_respond (withEntry_of_lt hi _ _)

end Reads

/-- The data of RDREG does not depend on the responses delivered before. -/
theorem readRegister_responses (r : RegName) (s : State) (rs : List Response) :
    readRegister r { s with responses := rs } = readRegister r s := by cases r <;> rfl

/-- A successful read changes nothing, and answers the same data after any other responses (R76). -/
theorem okWith_of_read_ok {i : Instr} {s t : State} {d : RespData}
    (hi : ∃ idx, i = .rdreg idx ∨ i = .rdtbl idx ∨ i = .rdcb idx ∨ i = .rdca idx ∨ i = .rdhx idx ∨ i = .rdhy idx)
    (h : exec i s = .next t) (hok : t.responses = s.responses ++ [⟨0, d⟩]) (rs : List Response) :
    OkWith i { s with responses := rs } d { s with responses := rs } := by
  obtain ⟨idx, hi⟩ := hi
  cases exec_effect h with
  | rdreg _ _ r ha =>
    rw [← (addResponse_eq_ok hok).2, ← readRegister_responses r s rs]; exact okWith_rdreg ha _
  | rdtbl => rw [← (addResponse_eq_ok hok).2]; exact okWith_rdtbl _
  | rdcb _ _ hlt => rw [← (addResponse_eq_ok hok).2]; exact okWith_rdcb hlt _
  | rdca _ _ hlt => rw [← (addResponse_eq_ok hok).2]; exact okWith_rdca hlt _
  | rdhx _ _ hlt => rw [← (addResponse_eq_ok hok).2]; exact okWith_rdhx hlt _
  | rdhy _ _ hlt => rw [← (addResponse_eq_ok hok).2]; exact okWith_rdhy hlt _
  | rdregBad | rdcbBad | rdcaBad | rdhxBad | rdhyBad => exact absurd hok (failed_ne_ok (by decide) s d)
  | _ => simp at hi

section Writes

variable {s : State} {i : Index}

theorem okWith_wrtbl (hs : s.st = .config) (v : RegWord) :
    OkWith (.wrtbl i v) s 0 { s with tbl := Memory.write s.tbl i.toNat v } :=
  okWith_of_respond (inConfig_of_config hs _)

theorem okWith_wrcb (hi : i.toNat < 64) (hs : s.st = .config) (v : RegWord) :
    OkWith (.wrcb i v) s 0 { s with b := Bank.write s.b i.toNat v } :=
  okWith_of_respond ((withEntry_of_lt hi _ _).trans (inConfig_of_config hs _))

theorem okWith_wrca (hi : i.toNat < 64) (hs : s.st = .config) (v : RegWord) :
    OkWith (.wrca i v) s 0 { s with a := Bank.write s.a i.toNat v } :=
  okWith_of_respond ((withEntry_of_lt hi _ _).trans (inConfig_of_config hs _))

theorem okWith_wrreg_status (ha : registerAt i = some .status) (v : RegWord) :
    OkWith (.wrreg i v) s 0 (clearStatus v s) :=
  okWith_of_respond (by simp only [exec, execWrreg, ha])

theorem okWith_wrreg_ctrl (ha : registerAt i = some .ctrl) (hs : s.st = .config) {v : RegWord} {c : Ctrl}
    (hc : ctrlOfWord v = some c) : OkWith (.wrreg i v) s 0 { s with ctrl := c } :=
  okWith_of_respond (by simp only [exec, execWrreg, ha, inConfig_of_config hs, writeCtrl, hc])

theorem okWith_wrreg_cfgFs (ha : registerAt i = some .cfgFs) (hs : s.st = .config) (v : RegWord) :
    OkWith (.wrreg i v) s 0 { s with cfgFs := v } :=
  okWith_of_respond (by simp only [exec, execWrreg, ha, inConfig_of_config hs])

theorem okWith_wrreg_cfgF (ha : registerAt i = some .cfgF) (hs : s.st = .config) (v : RegWord) :
    OkWith (.wrreg i v) s 0 { s with cfgF := v } :=
  okWith_of_respond (by simp only [exec, execWrreg, ha, inConfig_of_config hs])

theorem okWith_wrreg_cfgT (ha : registerAt i = some .cfgT) (hs : s.st = .config) (v : RegWord) :
    OkWith (.wrreg i v) s 0 { s with cfgT := v } :=
  okWith_of_respond (by simp only [exec, execWrreg, ha, inConfig_of_config hs])

theorem okWith_wrreg_cfgN (ha : registerAt i = some .cfgN) (hs : s.st = .config) (v : RegWord) :
    OkWith (.wrreg i v) s 0 { s with cfgN := v } :=
  okWith_of_respond (by simp only [exec, execWrreg, ha, inConfig_of_config hs])

end Writes

/-- A repeated clear of STATUS finds its flags cleared (R124). -/
theorem clearStatus_clearStatus (v : RegWord) (s : State) : clearStatus v (clearStatus v s) = clearStatus v s := by
  cases hb : v.getLsbD 4 <;> simp only [clearStatus, hb] <;> simp

theorem okWith_of_eq {i : Instr} {s u w : State} {d : RespData} (h : OkWith i s d u) (hu : u = w) : OkWith i s d w :=
  hu ▸ h

/-- A successful write, performed again, stores what is there already (R76). -/
theorem okWith_of_write_ok {i : Instr} {s t : State} {d : RespData}
    (hi : ∃ idx v, i = .wrreg idx v ∨ i = .wrtbl idx v ∨ i = .wrcb idx v ∨ i = .wrca idx v)
    (h : exec i s = .next t) (hok : t.responses = s.responses ++ [⟨0, d⟩]) : OkWith i t 0 t := by
  obtain ⟨idx, v, hi⟩ := hi
  -- `by exact hs`: `hs` speaks of `s`, whose ST the write has kept.
  cases exec_effect h with
  | wrregStatus _ _ v ha =>
    exact okWith_of_eq (okWith_wrreg_status ha v) (congrArg (addResponse .ok 0) (clearStatus_clearStatus v s))
  | wrregCtrl _ _ v c ha hs hc => exact okWith_wrreg_ctrl ha (by exact hs) hc
  | wrregFs _ _ v ha hs => exact okWith_wrreg_cfgFs ha (by exact hs) v
  | wrregF _ _ v ha hs => exact okWith_wrreg_cfgF ha (by exact hs) v
  | wrregT _ _ v ha hs => exact okWith_wrreg_cfgT ha (by exact hs) v
  | wrregN _ _ v ha hs => exact okWith_wrreg_cfgN ha (by exact hs) v
  | wrtbl _ i v hs =>
    have hstored := Memory.write_write_same s.tbl i.toNat v
    exact okWith_of_eq (okWith_wrtbl (by exact hs) v)
      (congrArg (fun m => addResponse .ok 0 { s with tbl := m }) hstored)
  | wrcb _ i v hlt hs =>
    have hstored := Bank.write_write_same s.b i.toNat v
    exact okWith_of_eq (okWith_wrcb hlt (by exact hs) v)
      (congrArg (fun m => addResponse .ok 0 { s with b := m }) hstored)
  | wrca _ i v hlt hs =>
    have hstored := Bank.write_write_same s.a i.toNat v
    exact okWith_of_eq (okWith_wrca hlt (by exact hs) v)
      (congrArg (fun m => addResponse .ok 0 { s with a := m }) hstored)
  | wrregBad | wrregReadOnly | wrregState | wrregValue | wrtblState | wrcbBad | wrcbState | wrcaBad | wrcaState =>
    exact absurd hok (failed_ne_ok (by decide) s d)
  | _ => simp at hi

/-- A push puts the new value at index 0, moves the entries below the length up by one and leaves the rest (R210). -/
theorem read_pushHistory {w len : Nat} (hlen : len ≤ 64) (v : BitVec w) (f : Bank w) (i : Nat) :
    Bank.read (pushHistory len v f) i =
      if i = 0 then v else if i < len then Bank.read f (i - 1) else Bank.read f i := by
  unfold pushHistory
  split
  · next hi => rw [hi, Bank.read_write_same _ _ _ (by decide)]
  · next hi =>
    rw [Bank.read_write_other _ _ _ _ hi, shiftDown_read _ _ _ (by omega)]
    exact if_congr (by omega) rfl rfl

/-- A successful SYN advances the tick index by one (R172). -/
theorem n_of_syn_ok {s t : State} {d : RespData} (h : exec .syn s = .next t)
    (hok : t.responses = s.responses ++ [⟨0, d⟩]) : t.n = s.n + 1 := by
  cases exec_effect h with
  | syn => rfl
  | synMode | synState => exact absurd hok (failed_ne_ok (by decide) s d)

/-- A successful FLT pushes the sample on the input history, and moves both histories (R210, R211). -/
theorem histories_of_flt_ok {s t : State} {smp : SampleWord} {d : RespData} (h : exec (.flt smp) s = .next t)
    (hok : t.responses = s.responses ++ [⟨0, d⟩]) :
    Bank.read t.x 0 = smp ∧ ∀ i, 1 ≤ i → i < s.cfgN.toNat →
      Bank.read t.x i = Bank.read s.x (i - 1) ∧ Bank.read t.y i = Bank.read s.y (i - 1) := by
  cases exec_effect h with
  | flt _ _ hs hm hn =>
    simp only [addResponse_x, addResponse_y, noteClip_x, noteClip_y, storeOutput_x, storeOutput_y, pushSample_x,
      pushSample_y]
    refine ⟨by rw [read_pushHistory hn, if_pos rfl], fun i hpos hi => ?_⟩
    have hne : i ≠ 0 := by omega
    have hlt : i < order s := hi
    rw [Bank.read_write_other _ _ _ _ hne]
    simp only [read_pushHistory hn, if_neg hne, if_pos hlt, and_self]
  | fltMode | fltState => exact absurd hok (failed_ne_ok (by decide) s d)

end Sys2Proof.Machine
end

section
/-! The family of 20_memory.md. -/

namespace Sys2Proof.Proofs

open Sys2Proof.Machine Sys2Proof.Safety

/-- RUN in FILTER mode with `N` = 2, every file zero. -/
def filterRunning : State :=
  { State.reset with st := .run, ctrl := ⟨.filter, .sat, .negabs⟩, cfgFs := 8000, cfgN := 2 }

/-- From zero histories FLT 1 leaves `X[1]` = 0, and performed again it leaves `X[1]` = 1. -/
theorem flt_not_idempotent : ∃ (s t u : State) (smp : SampleWord),
    exec (.flt smp) s = .next t ∧ exec (.flt smp) t = .next u ∧ ¬SameBlock t u :=
  ⟨filterRunning, _, _, 1, rfl, rfl, fun h => absurd (congrArg (fun s : State => Bank.read s.x 1) h) (by decide)⟩

/-- Settles O43: a successful read leaves the state and answers its data again (`okWith_of_read_ok`), a successful
write finds its value stored when repeated (`okWith_of_write_ok`), and the ticks move `n` and the histories. -/
theorem readsHaveNoSideEffectAndWritesAreIdempotent :
    Obligations.ReadsHaveNoSideEffectAndWritesAreIdempotent := by
  refine ⟨fun i s t d hi h hok => ⟨?_, okWith_of_read_ok hi h hok _⟩, fun i s t d hi h hok => ?_,
    fun s t d h hok => ⟨n_of_syn_ok h hok, ?_⟩, fun s t smp d => histories_of_flt_ok, flt_not_idempotent⟩
  · exact sameBlock_of_okWith (okWith_of_read_ok hi h hok s.responses) h
  · have hagain := okWith_of_write_ok hi h hok
    exact ⟨_, hagain, sameBlock_of_okWith hagain hagain⟩
  · rw [n_of_syn_ok h hok]; simp

end Sys2Proof.Proofs
end

section
/-! Decoding said on a word's fields: each of its three answers (R94), and R93's test of a word under its format's
mask. -/

namespace Sys2Proof

/-- Fields that name a command carry its opcode (R93). -/
theorem op_of_instrOf {f : Fields} {i : Instr} (h : instrOf f = some i) : f.op = i.fields.op := by
  unfold instrOf at h
  split at h <;> cases h <;> exact BitVec.eq_of_toNat_eq ‹_›

/-- The map gives an opcode a mnemonic exactly where it gives it a format (R93). -/
theorem isSome_instrOf (f : Fields) : (instrOf f).isSome = (formatOf f.op).isSome := by
  unfold instrOf formatOf
  split <;> simp [*]

theorem instrOf_of_formatOf {f : Fields} {fmt : Format} (h : formatOf f.op = some fmt) : ∃ i, instrOf f = some i :=
  Option.isSome_iff_exists.1 (by rw [isSome_instrOf, h]; rfl)

/-- The opcodes without a format (R96). -/
theorem formatOf_eq_none_iff : ∀ op : BitVec 4, formatOf op = none ↔ op = 0xE ∨ op = 0xF := by decide

theorem formatOf_of_mem_reserved : ∀ op ∈ [0xE#4, 0xF#4], formatOf op = none := by decide

theorem formatOf_of_mem_z : ∀ op ∈ [0x0#4, 0xB#4, 0xC#4], formatOf op = some .z := by decide

theorem formatOf_of_mem_a : ∀ op ∈ [0x1#4, 0x3#4, 0x5#4, 0x7#4, 0x9#4, 0xA#4], formatOf op = some .a := by decide

theorem formatOf_of_mem_w : ∀ op ∈ [0x2#4, 0x4#4, 0x6#4, 0x8#4], formatOf op = some .w := by decide

theorem decode_eq_ok_iff (cw : CmdWord) (i : Instr) :
    decode cw = .ok i ↔ ∃ fmt, formatOf (opField cw) = some fmt ∧ instrOf (fieldsOf cw) = some i ∧
      fmt.reservedClear (fieldsOf cw) := by
  constructor
  · intro h
    rw [← wordOf_fieldsOf cw] at h
    exact decode_ok_fields _ i h
  · rintro ⟨fmt, hfmt, hi, hclear⟩
    rw [← wordOf_fieldsOf cw]
    exact decode_wordOf _ fmt i hfmt hi hclear

theorem decode_of_no_format {cw : CmdWord} (h : formatOf (opField cw) = none) :
    decode cw = .error .reservedOpcode := by
  rw [decode, h]

theorem decode_of_format {cw : CmdWord} {fmt : Format} (h : formatOf (opField cw) = some fmt)
    (hclear : ¬fmt.reservedClear (fieldsOf cw)) : decode cw = .error .reservedField := by
  obtain ⟨i, hi⟩ := instrOf_of_formatOf (f := fieldsOf cw) h
  have hmask : cw &&& fmt.reservedMask ≠ 0 := by
    rwa [ne_eq, ← wordOf_fieldsOf cw, reservedMask_eq_zero_iff]
  rw [decode, h, hi]
  exact if_neg hmask

/-- A word is rejected for its opcode exactly when the opcode has no format (R94). -/
theorem decode_eq_reservedOpcode_iff (cw : CmdWord) :
    decode cw = .error .reservedOpcode ↔ formatOf (opField cw) = none := by
  refine ⟨fun h => ?_, decode_of_no_format⟩
  cases hfmt : formatOf (opField cw) with
  | none => rfl
  | some fmt =>
    obtain ⟨i, hi⟩ := instrOf_of_formatOf (f := fieldsOf cw) hfmt
    by_cases hclear : fmt.reservedClear (fieldsOf cw)
    · cases h.symm.trans ((decode_eq_ok_iff cw i).2 ⟨fmt, hfmt, hi, hclear⟩)
    · cases h.symm.trans (decode_of_format hfmt hclear)

/-- A format's mask is its reserved fields with the whole opcode field (R92). -/
theorem mask_eq_wordOf (fmt : Format) : fmt.mask = wordOf { fieldsOf fmt.mask with op := 0xF } := by
  cases fmt <;> decide

theorem reservedMask_eq_wordOf (fmt : Format) : fmt.reservedMask = wordOf { fieldsOf fmt.mask with op := 0 } := by
  cases fmt <;> decide

theorem wordOf_eq_wordOf_iff {f g : Fields} : wordOf f = wordOf g ↔ f = g := ⟨wordOf_inj f g, congrArg wordOf⟩

/-- A word matches an opcode under a format's mask exactly when it has the opcode and clear reserved fields (R93). -/
theorem and_mask_eq_iff (fmt : Format) (f : Fields) (op : BitVec 4) :
    wordOf f &&& fmt.mask = wordOf ⟨0, op, 0, 0⟩ ↔ f.op = op ∧ fmt.reservedClear f := by
  have hop : f.op &&& 0xF = f.op := BitVec.and_allOnes
  have hzero : f.op &&& 0 = 0 := BitVec.and_zero
  rw [← reservedMask_eq_zero_iff, mask_eq_wordOf, reservedMask_eq_wordOf, wordOf_and, wordOf_and, wordOf_eq_zero]
  simp only [wordOf_eq_wordOf_iff, Fields.mk.injEq, hop, hzero]
  tauto

/-- R93 and R94: where an opcode's row reads `i` from the word's fields, the word decodes to `i` exactly when it matches
the row under the mask of the row's format. -/
theorem decode_eq_ok_iff_match {cw : CmdWord} {i : Instr} (fmt : Format) (op : BitVec 4)
    (hfmt : formatOf op = some fmt) (hrow : instrOf { fieldsOf cw with op := op } = some i) :
    decode cw = .ok i ↔ cw &&& fmt.mask = wordOf ⟨0, op, 0, 0⟩ := by
  have hmatch := and_mask_eq_iff fmt (fieldsOf cw) op
  rw [wordOf_fieldsOf] at hmatch
  rw [decode_eq_ok_iff, hmatch]
  constructor
  · rintro ⟨fmt', hfmt', hi, hclear⟩
    have hop : opField cw = op := (op_of_instrOf hi).trans (op_of_instrOf hrow).symm
    rw [hop, hfmt] at hfmt'
    cases hfmt'
    exact ⟨hop, hclear⟩
  · rintro ⟨rfl, hclear⟩
    exact ⟨fmt, hfmt, hrow, hclear⟩

/-- Only the zero word encodes NOP (R96). -/
theorem decode_eq_nop_iff (cw : CmdWord) : decode cw = .ok .nop ↔ cw = 0 := by
  have hmask : cw &&& Format.mask .z = cw := BitVec.and_allOnes
  rw [decode_eq_ok_iff_match .z 0x0 rfl rfl, hmask]
  rfl

end Sys2Proof
end

section
/-! A step on a command word (R94, R306): an illegal word, and how a command that answers ends (R91). -/

namespace Sys2Proof.Machine

theorem step_of_command {s : State} {cw : CmdWord} {rest : List HostEvent} (h : s.inputs = .command cw :: rest) :
    step s = performWord cw { s with inputs := rest } := by
  unfold step acceptEvent; rw [h]; rfl

theorem performWord_of_illegal {cw : CmdWord} {e : DecodeError} (h : decode cw = .error e) (s : State) :
    performWord cw s = .next (failed .illegal s) := by
  rw [performWord, h]; rfl

/-- The commands that answer no data when they succeed (R91). -/
def ReturnsNoData (i : Instr) : Prop :=
  i = .nop ∨ i = .start ∨ ∃ idx v, i = .wrreg idx v ∨ i = .wrtbl idx v ∨ i = .wrcb idx v ∨ i = .wrca idx v

/-- The three ways a command's one response can read (R91): data, or none, from a success; an error code; or START's
fault code, which FCODE then holds. -/
inductive Answer (i : Instr) (s t : State) : Prop where
  | ok (d : RespData) (h : t.responses = s.responses ++ [⟨0, d⟩]) (hd : ReturnsNoData i → d = 0)
  | error (c : RCode) (hc : c ≠ .ok) (hcf : c ≠ .configFault) (h : t.responses = s.responses ++ [⟨c.bits, 0⟩])
  | configFault (h : t.responses = s.responses ++ [⟨7, t.fcode.setWidth 64⟩]) (hi : i = .start) (hf : t.fcode ≠ 0)

/-- Every command that answers does so in one of the three ways, and takes no event of its own. -/
theorem Effect.answer {i : Instr} {s t : State} (he : Effect i s t) : Answer i s t ∧ t.inputs = s.inputs := by
  refine ⟨?_, by cases he <;> rfl⟩
  cases he with
  | startFails _ _ hv => exact .configFault rfl rfl hv
  | nop | wrregStatus | wrregCtrl | wrregFs | wrregF | wrregT | wrregN | wrtbl | wrcb | wrca | startOk =>
    exact .ok 0 rfl fun _ => rfl
  | rdreg | rdtbl | rdcb | rdca | rdhx | rdhy | syn | flt => exact .ok _ rfl (by simp [ReturnsNoData])
  | _ => exact .error _ (by decide) (by decide) rfl

/-- No code above 7 is produced (R261). -/
theorem RCode.bits_le (c : RCode) : c.bits.toNat ≤ 7 := by cases c <;> decide

theorem RCode.bits_eq_seven_iff (c : RCode) : c.bits = 7 ↔ c = .configFault := by cases c <;> decide

end Sys2Proof.Machine
end

section
/-! The family of 30_encoding.md. -/

namespace Sys2Proof.Proofs

open Sys2Proof.Machine

/-- Settles O3: each row is `decode_eq_ok_iff_match` at the row's format and opcode. -/
theorem opcodeMapDecidesDecoding : Obligations.OpcodeMapDecidesDecoding := fun cw =>
  ⟨decode_eq_ok_iff_match .z 0x0 rfl rfl,
    decode_eq_ok_iff_match .a 0x1 rfl rfl,
    decode_eq_ok_iff_match .w 0x2 rfl rfl,
    decode_eq_ok_iff_match .a 0x3 rfl rfl,
    decode_eq_ok_iff_match .w 0x4 rfl rfl,
    decode_eq_ok_iff_match .a 0x5 rfl rfl,
    decode_eq_ok_iff_match .w 0x6 rfl rfl,
    decode_eq_ok_iff_match .a 0x7 rfl rfl,
    decode_eq_ok_iff_match .w 0x8 rfl rfl,
    decode_eq_ok_iff_match .a 0x9 rfl rfl,
    decode_eq_ok_iff_match .a 0xA rfl rfl,
    decode_eq_ok_iff_match .z 0xB rfl rfl,
    decode_eq_ok_iff_match .z 0xC rfl rfl,
    decode_eq_ok_iff_match .s 0xD rfl rfl,
    (decode_eq_reservedOpcode_iff cw).trans (formatOf_eq_none_iff _),
    fun _ s h => performWord_of_illegal h s⟩

/-- Settles O4: in each of the five ways decoding rejects the word, and the step takes the error path; NOP is
`decode_eq_nop_iff`. -/
theorem reservedWordEndsIllegal : Obligations.ReservedWordEndsIllegal := by
  refine ⟨fun s cw rest h hreserved => ?_, decode_eq_nop_iff⟩
  obtain ⟨e, he⟩ : ∃ e, decode cw = .error e := by
    obtain hop | ⟨hop, hne⟩ | ⟨hop, hne⟩ | ⟨hop, hne⟩ | ⟨hop, hne⟩ := hreserved
    · exact ⟨_, decode_of_no_format (formatOf_of_mem_reserved _ hop)⟩
    · exact ⟨_, decode_of_format (formatOf_of_mem_z _ hop) fun ⟨himm, hidx, hsmp⟩ =>
        hne.elim (· himm) (·.elim (· hidx) (· hsmp))⟩
    · exact ⟨_, decode_of_format (formatOf_of_mem_a _ hop) fun ⟨himm, hsmp⟩ => hne.elim (· himm) (· hsmp)⟩
    · exact ⟨_, decode_of_format (formatOf_of_mem_w _ hop) hne⟩
    · exact ⟨_, decode_of_format (congrArg formatOf hop) fun ⟨himm, hidx⟩ => hne.elim (· himm) (· hidx)⟩
  rw [step_of_command h]
  exact performWord_of_illegal he _

/-- Settles O8: an illegal word answers `(1, 0)`, and a command in one of the three ways of `Answer`. -/
theorem everyCommandGivesOneResponse : Obligations.EveryCommandGivesOneResponse := by
  intro s t cw rest h hstep
  rw [step_of_command h] at hstep
  obtain ⟨_, _, rfl⟩ | ⟨i, hi, hexec⟩ := performWord_next hstep
  · exact ⟨⟨1, 0⟩, rfl, rfl, by decide, fun _ _ => rfl, fun h => absurd h (by decide), fun _ _ => rfl⟩
  obtain ⟨hanswer, hinputs⟩ := (exec_effect hexec).answer
  cases hanswer with
  | ok d hr hd =>
    refine ⟨⟨0, d⟩, hr, hinputs, RCode.ok.bits_le, fun h => absurd rfl h,
      fun h => absurd h (by decide : (0 : Code) ≠ 7), ?_⟩
    rintro - ⟨j, hj, hnone⟩
    cases hi.symm.trans hj
    exact hd hnone
  | error c _ hcf hr =>
    exact ⟨⟨c.bits, 0⟩, hr, hinputs, c.bits_le, fun _ _ => rfl, fun h => absurd (c.bits_eq_seven_iff.1 h) hcf,
      fun _ _ => rfl⟩
  | configFault hr hstart hf =>
    exact ⟨⟨7, t.fcode.setWidth 64⟩, hr, hinputs, RCode.configFault.bits_le, fun _ h => absurd rfl h,
      fun _ => ⟨hstart ▸ hi, rfl, hf⟩, fun h => absurd h (by decide : (7 : Code) ≠ 0)⟩

/-- Settles O5: the assembler run on the ten lines, and the decoder on the ten words. -/
theorem workedEncodingsHold : Obligations.WorkedEncodingsHold := by
  unfold Obligations.WorkedEncodingsHold
  decide

end Sys2Proof.Proofs
end

section
/-! CTRL's word and the words CTRL can store (R37, R123), and the words STATUS and the other registers read as (R38,
R72). -/

namespace Sys2Proof.Machine

/-- The bits of CTRL's word (R37). -/
theorem Ctrl.getLsbD_word (c : Ctrl) :
    c.word.getLsbD 0 = (c.mode == .filter) ∧ c.word.getLsbD 1 = (c.ovf == .wrap) ∧
      c.word.getLsbD 2 = (c.shape == .ident) := by
  obtain ⟨_ | _, _ | _, _ | _⟩ := c <;> decide

/-- The two SHAPE bits of CTRL's word, of which the second is never set (R37). -/
theorem Ctrl.extractLsb'_word (c : Ctrl) : c.word.extractLsb' 2 2 = shapeBits c.shape := by
  obtain ⟨_ | _, _ | _, _ | _⟩ := c <;> decide

theorem Ctrl.extractLsb'_widenRegister_word (c : Ctrl) : (widenRegister c.word).extractLsb' 3 61 = 0 := by
  obtain ⟨_ | _, _ | _, _ | _⟩ := c <;> decide

/-- A write of the word CTRL reads as stores the fields it was read from (R37, R123). -/
theorem ctrlOfWord_word (c : Ctrl) : ctrlOfWord c.word = some c := by
  obtain ⟨_ | _, _ | _, _ | _⟩ := c <;> rfl

/-- Each value below 8 is the word of legal fields (R37). -/
theorem exists_word_eq {v : RegWord} (h : v.toNat < 8) : ∃ c : Ctrl, c.word = v := by
  have hv : v = BitVec.ofNat 32 v.toNat := by simp
  rw [hv]
  interval_cases v.toNat
  · exact ⟨⟨.synth, .sat, .negabs⟩, rfl⟩
  · exact ⟨⟨.filter, .sat, .negabs⟩, rfl⟩
  · exact ⟨⟨.synth, .wrap, .negabs⟩, rfl⟩
  · exact ⟨⟨.filter, .wrap, .negabs⟩, rfl⟩
  · exact ⟨⟨.synth, .sat, .ident⟩, rfl⟩
  · exact ⟨⟨.filter, .sat, .ident⟩, rfl⟩
  · exact ⟨⟨.synth, .wrap, .ident⟩, rfl⟩
  · exact ⟨⟨.filter, .wrap, .ident⟩, rfl⟩

/-- A value of 8 or more has a bit of 31:4 set or SHAPE 2 or 3, and is not stored (R123). -/
theorem ctrlOfWord_eq_none {v : RegWord} (h : 8 ≤ v.toNat) : ctrlOfWord v = none := by
  have hshape : (v.extractLsb' 2 2).toNat = v.toNat / 4 % 4 := by
    rw [BitVec.extractLsb'_toNat, Nat.shiftRight_eq_div_pow]
  unfold ctrlOfWord
  split
  · rfl
  · next hreserved =>
    have hlow : v.toNat / 16 % 268435456 = 0 := by
      have := congrArg BitVec.toNat (not_not.1 hreserved)
      rwa [BitVec.extractLsb'_toNat, Nat.shiftRight_eq_div_pow] at this
    have := v.isLt
    split
    · omega
    · omega
    · rfl

/-- Above STATE's two bits, STATUS reads its fields where R38 places them. -/
theorem widenRegister_statusWord_fields (s : State) :
    (widenRegister (statusWord s)).getLsbD 2 = s.clip ∧ (widenRegister (statusWord s)).getLsbD 3 = s.ysat ∧
      (widenRegister (statusWord s)).getLsbD 4 = s.cerr ∧ (widenRegister (statusWord s)).extractLsb' 5 3 = 0 ∧
      (widenRegister (statusWord s)).extractLsb' 8 4 = s.ccode ∧
      (widenRegister (statusWord s)).extractLsb' 12 4 = s.fcode ∧
      (widenRegister (statusWord s)).extractLsb' 16 48 = 0 := by
  simp only [widenRegister, statusWord, BitVec.eq_of_getLsbD_eq_iff, BitVec.getLsbD_extractLsb',
    BitVec.getLsbD_setWidth, BitVec.getLsbD_append]
  refine ⟨?clip, ?ysat, ?cerr, fun i hi => ?zeros, fun i hi => ?ccode, fun i hi => ?fcode, fun i hi => ?high⟩
  case clip | ysat | cerr => simp
  case zeros => simp (disch := omega) [if_neg, if_pos, Nat.sub_sub]
  case ccode | fcode =>
    simp (disch := omega) only [hi, if_neg, Nat.sub_sub, Nat.reduceAdd, Nat.add_sub_cancel_left, if_true,
      decide_true, decide_eq_true, Bool.true_and]
  case high => simp (disch := omega) [if_neg]

theorem widenRegister_eq_ofNat (v : RegWord) : widenRegister v = BitVec.ofNat 64 v.toNat :=
  (BitVec.ofNat_toNat 64 v).symm

theorem widenRegister_low (n : BitVec 64) :
    widenRegister (n.extractLsb' 0 32) = BitVec.ofNat 64 (n.toNat % 2 ^ 32) := by
  rw [widenRegister_eq_ofNat, BitVec.extractLsb'_toNat, Nat.shiftRight_zero]

theorem widenRegister_high (n : BitVec 64) :
    widenRegister (n.extractLsb' 32 32) = BitVec.ofNat 64 (n.toNat / 2 ^ 32) := by
  have := n.isLt
  rw [widenRegister_eq_ofNat, BitVec.extractLsb'_toNat, Nat.shiftRight_eq_div_pow, Nat.mod_eq_of_lt (by omega)]

theorem widenRegister_index (i : Index) : widenRegister (i.setWidth 32) = BitVec.ofNat 64 i.toNat := by
  have := i.isLt
  rw [widenRegister_eq_ofNat, BitVec.toNat_setWidth, Nat.mod_eq_of_lt (by omega)]

end Sys2Proof.Machine
end

section
/-! The register commands' refusals, and the frame of the phase accumulator (R121, R123, R126). -/

namespace Sys2Proof.Machine

open Sys2Proof.Safety

variable {s : State} {a : Index}

theorem errWith_rdreg_of_none (ha : registerAt a = none) (s : State) : ErrWith (.rdreg a) s 2 :=
  errWith_of_raiseErr (c := .badIndex) (by simp only [exec, execRdreg, ha])

theorem errWith_wrreg_of_none (ha : registerAt a = none) (s : State) (v : RegWord) : ErrWith (.wrreg a v) s 2 :=
  errWith_of_raiseErr (c := .badIndex) (by simp only [exec, execWrreg, ha])

theorem errWith_wrreg_ctrl_of_none (ha : registerAt a = some .ctrl) (hs : s.st = .config) {v : RegWord}
    (hv : ctrlOfWord v = none) : ErrWith (.wrreg a v) s 6 :=
  errWith_of_raiseErr (c := .badValue) (by simp only [exec, execWrreg, ha, inConfig_of_config hs, writeCtrl, hv])

theorem errWith_wrreg_of_readOnly {r : RegName} (ha : registerAt a = some r)
    (hr : r = .id ∨ r = .params ∨ r = .paNLo ∨ r = .paNHi ∨ r = .paIdx) (s : State) (v : RegWord) :
    ErrWith (.wrreg a v) s 3 := by
  refine errWith_of_raiseErr (c := .readOnly) ?_
  obtain rfl | rfl | rfl | rfl | rfl := hr <;> simp only [exec, execWrreg, ha]

/-- Addresses 0, 1 and 8 to 10 are the read-only registers (R34). -/
theorem registerAt_readOnly (h : a.toNat ∈ [0x000, 0x001, 0x008, 0x009, 0x00A]) :
    ∃ r, registerAt a = some r ∧ (r = .id ∨ r = .params ∨ r = .paNLo ∨ r = .paNHi ∨ r = .paIdx) := by
  simp only [List.mem_cons, List.not_mem_nil, or_false] at h
  obtain h | h | h | h | h := h
  · exact ⟨.id, registerAt_addr a .id h, by simp⟩
  · exact ⟨.params, registerAt_addr a .params h, by simp⟩
  · exact ⟨.paNLo, registerAt_addr a .paNLo h, by simp⟩
  · exact ⟨.paNHi, registerAt_addr a .paNHi h, by simp⟩
  · exact ⟨.paIdx, registerAt_addr a .paIdx h, by simp⟩

/-- No command but SYN moves the phase accumulator (R43, R44). -/
theorem Effect.keeps_phase {i : Instr} {s t : State} (he : Effect i s t) (hi : i ≠ .syn) :
    t.n = s.n ∧ t.paIdx = s.paIdx := by
  cases he with
  | syn => exact absurd rfl hi
  | _ => exact ⟨rfl, rfl⟩

end Sys2Proof.Machine
end

section
/-! START by its checks (R131 to R134): the fault code of each, and what it makes the command leave. -/

namespace Sys2Proof.Machine

open Sys2Proof.Safety

variable {s : State}

theorem errWith_start_of_not_config (hs : s.st ≠ .config) : ErrWith .start s 4 :=
  errWith_of_raiseErr (c := .badState) (inConfig_of_not_config hs _)

theorem okWith_start_of_validate (hs : s.st = .config) (hv : validate s = 0) :
    OkWith .start s 0 { s with st := .run } :=
  okWith_of_respond (execStart_of_valid hs hv)

theorem startFails_of_validate {fc : Code} (hs : s.st = .config) (hv : validate s = fc) (hfc : fc ≠ 0) :
    StartFails s fc := by
  subst hv; exact execStart_of_invalid hs hfc

/-- In SYNTH mode at a legal rate, START checks the table size and then the frequency (R132). -/
theorem validate_synth (hfs : s.cfgFs.toNat ∈ Config.fsSet) (hm : s.ctrl.mode = .synth) :
    validate s = if s.cfgT.toNat = 0 ∨ 4096 < s.cfgT.toNat then 2
      else if s.cfgFs.toNat ≤ 2 * s.cfgF.toNat then 3 else 0 := by
  rw [validate, if_neg (not_not.2 hfs), hm]; rfl

/-- In FILTER mode at a legal rate, START checks the order (R132). -/
theorem validate_filter (hfs : s.cfgFs.toNat ∈ Config.fsSet) (hm : s.ctrl.mode = .filter) :
    validate s = if s.cfgN.toNat = 0 ∨ 64 < s.cfgN.toNat then 4 else 0 := by
  rw [validate, if_neg (not_not.2 hfs), hm]; rfl

theorem startFails_rate (hs : s.st = .config) (hfs : s.cfgFs.toNat ∉ Config.fsSet) : StartFails s 1 :=
  startFails_of_validate hs (if_pos hfs) (by decide)

section Synth

variable (hs : s.st = .config) (hfs : s.cfgFs.toNat ∈ Config.fsSet) (hm : s.ctrl.mode = .synth)
include hs hfs hm

theorem startFails_tableSize (ht : s.cfgT.toNat = 0 ∨ 4096 < s.cfgT.toNat) : StartFails s 2 :=
  startFails_of_validate hs (by rw [validate_synth hfs hm, if_pos ht]) (by decide)

theorem startFails_nyquist (hpos : 1 ≤ s.cfgT.toNat) (hle : s.cfgT.toNat ≤ 4096)
    (hf : s.cfgFs.toNat ≤ 2 * s.cfgF.toNat) : StartFails s 3 :=
  startFails_of_validate hs (by rw [validate_synth hfs hm, if_neg (by omega), if_pos hf]) (by decide)

theorem okWith_start_synth (hpos : 1 ≤ s.cfgT.toNat) (hle : s.cfgT.toNat ≤ 4096)
    (hf : 2 * s.cfgF.toNat < s.cfgFs.toNat) : OkWith .start s 0 { s with st := .run } :=
  okWith_start_of_validate hs (by rw [validate_synth hfs hm, if_neg (by omega), if_neg (by omega)])

end Synth

section Filter

variable (hs : s.st = .config) (hfs : s.cfgFs.toNat ∈ Config.fsSet) (hm : s.ctrl.mode = .filter)
include hs hfs hm

theorem startFails_order (hn : s.cfgN.toNat = 0 ∨ 64 < s.cfgN.toNat) : StartFails s 4 :=
  startFails_of_validate hs (by rw [validate_filter hfs hm, if_pos hn]) (by decide)

theorem okWith_start_filter (hpos : 1 ≤ s.cfgN.toNat) (hle : s.cfgN.toNat ≤ 64) :
    OkWith .start s 0 { s with st := .run } :=
  okWith_start_of_validate hs (by rw [validate_filter hfs hm, if_neg (by omega)])

end Filter

/-- A START that enters RUN from CONFIG has passed validation and set ST (R133). -/
theorem eq_of_start_run {s t : State} (h : exec .start s = .next t) (hs : s.st = .config) (hrun : t.st = .run) :
    t = addResponse .ok 0 { s with st := .run } := by
  cases exec_effect h with
  | startOk => rfl
  | startFails => simp at hrun
  | startState _ hs' => exact absurd hs hs'

end Sys2Proof.Machine
end

section
/-! The family of 40_control.md. -/

namespace Sys2Proof.Proofs

open Sys2Proof.Machine Sys2Proof.Safety

/-- Settles O11: a value below 8 is the word of some fields (`exists_word_eq`), which the write stores; any other is
refused (`ctrlOfWord_eq_none`). -/
theorem ctrlStoresLegalValuesExactly : Obligations.CtrlStoresLegalValuesExactly := by
  refine fun s v => ⟨fun hs hv => ?legal, fun hs hv => ?illegal, fun hs => ?locked⟩
  case legal =>
    obtain ⟨c, rfl⟩ := exists_word_eq hv
    obtain ⟨hmode, hovf, -⟩ := c.getLsbD_word
    refine ⟨c, okWith_wrreg_ctrl rfl hs (ctrlOfWord_word c), okWith_rdreg (r := .ctrl) rfl _, ?_, ?_, ?_⟩
    · rw [hmode, beq_iff_eq]
    · rw [hovf, beq_iff_eq]
    · rw [c.extractLsb'_word]; cases c.shape <;> decide
  case illegal => exact errWith_wrreg_ctrl_of_none rfl hs (ctrlOfWord_eq_none hv)
  case locked => exact errWith_wrreg_of_not_config hs (r := .ctrl) rfl (.inl rfl) v

/-- Settles O13: `okWith_rdreg` at each register, with the word it reads as. -/
theorem rdregReadsTheRegister : Obligations.RdregReadsTheRegister := by
  intro s
  obtain ⟨hmode, hovf, hshape⟩ := s.ctrl.getLsbD_word
  refine ⟨okWith_rdreg (r := .id) rfl s, okWith_rdreg (r := .params) rfl s,
    ⟨_, okWith_rdreg (r := .ctrl) rfl s, hmode, hovf, hshape, s.ctrl.extractLsb'_widenRegister_word⟩,
    ⟨_, okWith_rdreg (r := .status) rfl s, widenRegister_statusWord_state s, widenRegister_statusWord_fields s⟩,
    ?_, ?_, ?_, ?_, ?_, ?_, ?_, fun a ha => errWith_rdreg_of_none ((registerAt_none a).2 ha) s⟩
  · rw [← widenRegister_eq_ofNat]; exact okWith_rdreg (r := .cfgFs) rfl s
  · rw [← widenRegister_eq_ofNat]; exact okWith_rdreg (r := .cfgF) rfl s
  · rw [← widenRegister_eq_ofNat]; exact okWith_rdreg (r := .cfgT) rfl s
  · rw [← widenRegister_eq_ofNat]; exact okWith_rdreg (r := .cfgN) rfl s
  · rw [← widenRegister_low]; exact okWith_rdreg (r := .paNLo) rfl s
  · rw [← widenRegister_high]; exact okWith_rdreg (r := .paNHi) rfl s
  · rw [← widenRegister_index]; exact okWith_rdreg (r := .paIdx) rfl s

/-- Settles O15: the address decides the refusal in every state, and `Effect.keeps_phase` is the last clause. -/
theorem wrregRefusesReadOnlyAndUnimplemented : Obligations.WrregRefusesReadOnlyAndUnimplemented := by
  refine ⟨fun s a v => ⟨fun ha => ?readOnly, fun ha => ?unimplemented⟩,
    fun i s t h hi => (exec_effect h).keeps_phase hi⟩
  case readOnly =>
    obtain ⟨r, hr, hreadOnly⟩ := registerAt_readOnly ha
    exact errWith_wrreg_of_readOnly hr hreadOnly s v
  case unimplemented => exact errWith_wrreg_of_none ((registerAt_none a).2 ha) s v

/-- Settles O17: each clause is the lemma of its check. -/
theorem startValidatesThenRunsOrFaults : Obligations.StartValidatesThenRunsOrFaults := fun _ =>
  ⟨errWith_start_of_not_config, startFails_rate, fun hs hfs =>
    ⟨fun hm => ⟨startFails_tableSize hs hfs hm, startFails_nyquist hs hfs hm, okWith_start_synth hs hfs hm⟩,
      fun hm => ⟨startFails_order hs hfs hm, okWith_start_filter hs hfs hm⟩⟩⟩

/-- Settles O18: such a START sets ST only, and in CONFIG the invariant holds the phase and the histories at 0. -/
theorem startBeginsWithZeroPhaseAndHistory : Obligations.StartBeginsWithZeroPhaseAndHistory := by
  intro s t hinv h hs hrun
  have hidle (m : Mode) : ¬(s.st = .run ∧ s.ctrl.mode = m) := fun ⟨hst, _⟩ => by rw [hs] at hst; cases hst
  obtain ⟨hn, hidx⟩ := hinv.phase_zero (hidle .synth)
  obtain ⟨hx, hy, -⟩ := hinv.history_zero (hidle .filter)
  obtain rfl := eq_of_start_run h hs hrun
  refine ⟨?frame, hn, hidx, fun i _ => ?histories⟩
  case frame => rw [← hs]; rfl
  case histories =>
    simp only [addResponse_x, addResponse_y, hx, hy, Bank.read_replicate, and_self]

/-- Settles O19: each configuration meets the check of R132 that decides it, and the example runs. -/
theorem startCornerCases : Obligations.StartCornerCases := by
  have hzero {s : State} (hs : s.st = .config) (hfs : s.cfgFs = 0) : StartFails s 1 :=
    startFails_rate hs (by rw [hfs]; decide)
  refine ⟨⟨hzero rfl rfl, fun _ => hzero⟩, fun s hs hm hpos hle => ⟨fun hfs hf => ?_, fun hfs hf => ?_,
    fun hfs hf => ?_⟩, ⟨_, rfl, rfl, rfl⟩, fun s hs => ?_⟩
  · have hrate : 0 < s.cfgFs.toNat := by
      refine Nat.pos_of_ne_zero fun h => ?_
      rw [h] at hfs
      exact absurd hfs (by decide)
    exact okWith_start_synth hs hfs hm hpos hle (by rw [hf]; exact hrate)
  · exact startFails_nyquist hs (by rw [hfs]; decide) hm hpos hle (by rw [hfs, hf]; decide)
  · exact okWith_start_synth hs (by rw [hfs]; decide) hm hpos hle (by rw [hfs, hf]; decide)
  · exact errWith_start_of_not_config (by obtain h | h := hs <;> rw [h] <;> decide)

/-- Settles O12: the write leaves `clearStatus`, and each flag is read off its bit of the value. -/
theorem statusWriteClearsFlags : Obligations.StatusWriteClearsFlags := by
  refine fun s v => ⟨clearStatus v s, okWith_wrreg_status rfl v, ?_, ?_, ?_, rfl, rfl⟩
  · rw [clearStatus_clip]; cases v.getLsbD 2 <;> simp
  · rw [clearStatus_ysat]; cases v.getLsbD 3 <;> simp
  · rw [clearStatus_cerr]; cases v.getLsbD 4 <;> simp

/-- Settles O14: a write to each CFG register in CONFIG, and BAD_STATE elsewhere. -/
theorem wrregStoresConfiguration : Obligations.WrregStoresConfiguration := fun _ v =>
  ⟨fun hs => ⟨okWith_wrreg_cfgFs rfl hs v, okWith_wrreg_cfgF rfl hs v, okWith_wrreg_cfgT rfl hs v,
      okWith_wrreg_cfgN rfl hs v⟩,
    fun hs => ⟨errWith_wrreg_of_not_config hs (r := .cfgFs) rfl (by simp) v,
      errWith_wrreg_of_not_config hs (r := .cfgF) rfl (by simp) v,
      errWith_wrreg_of_not_config hs (r := .cfgT) rfl (by simp) v,
      errWith_wrreg_of_not_config hs (r := .cfgN) rfl (by simp) v⟩⟩

/-- Settles O16: the zero word is NOP's (`decode_eq_nop_iff`), and NOP only responds. -/
theorem nopChangesNothing : Obligations.NopChangesNothing :=
  ⟨(decode_eq_nop_iff 0).2 rfl, fun _ => okWith_of_respond rfl⟩

end Sys2Proof.Proofs
end

section
/-! The family of 41_wavetable.md. -/

namespace Sys2Proof.Proofs

open Sys2Proof.Machine Sys2Proof.Safety

/-- Settles O21: in CONFIG the write leaves `Memory.write` in TBL and nothing else, and the table's read-after-write
laws give its entries; elsewhere the guard of R52 refuses it. -/
theorem wrtblStoresOneEntry : Obligations.WrtblStoresOneEntry := by
  refine fun s i v => ⟨fun hs => ⟨_, okWith_wrtbl hs v, ?stored, fun j hj => ?others, rfl⟩,
    fun hs => errWith_wrtbl_of_not_config hs v⟩
  case stored => exact Memory.read_write_same s.tbl i.toNat v
  case others => exact Memory.read_write_other s.tbl i.toNat j v hj

/-- Settles O20: `widenEntry` is the sign extension, and RDTBL has no guard. -/
theorem rdtblReadsTheEntry : Obligations.RdtblReadsTheEntry := fun s _ => okWith_rdtbl s

end Sys2Proof.Proofs
end

section
/-! The index rule of R172 as arithmetic: its range (R173), its periods (R174), and the width of its product. -/

namespace Sys2Proof.Machine

theorem nextIndex_lt {t : Nat} (ht : 0 < t) (n f fs : Nat) : nextIndex n f t fs < t := Nat.mod_lt _ ht

/-- Ticks that add a multiple of `T` to the quotient leave the index. -/
theorem nextIndex_add {p f t fs k : Nat} (hfs : 0 < fs) (h : p * f * t = fs * (t * k)) (n : Nat) :
    nextIndex (n + p) f t fs = nextIndex n f t fs := by
  unfold nextIndex
  calc (n + p) * f * t / fs % t
      = (n * f * t + fs * (t * k)) / fs % t := by rw [Nat.add_mul, Nat.add_mul, h]
    _ = (n * f * t / fs + t * k) % t := by rw [Nat.add_mul_div_left _ _ hfs]
    _ = n * f * t / fs % t := Nat.add_mul_mod_self_left ..

/-- The greatest rate of R7's set. -/
theorem le_of_mem_fsSet : ∀ r ∈ Config.fsSet, r ≤ 96000 := by decide

variable {s : State}

theorem synIndex_lt (ht : 1 ≤ s.cfgT.toNat) : synIndex s < s.cfgT.toNat := nextIndex_lt ht ..

/-- The product fits 92 bits: 64 for `n`, 16 for a frequency START accepts and 12 for the table size (R172). -/
theorem phaseProduct_lt (hrate : s.cfgFs.toNat ∈ Config.fsSet) (hf : 2 * s.cfgF.toNat < s.cfgFs.toNat)
    (ht : s.cfgT.toNat ≤ 4096) : s.n.toNat * s.cfgF.toNat * s.cfgT.toNat < 2 ^ 92 := by
  have hf16 : s.cfgF.toNat ≤ 2 ^ 16 := by have := le_of_mem_fsSet _ hrate; omega
  have hnf : s.n.toNat * s.cfgF.toNat < 2 ^ 64 * 2 ^ 16 := Nat.mul_lt_mul_of_lt_of_le s.n.isLt hf16 (by decide)
  exact Nat.mul_lt_mul_of_lt_of_le (d := 2 ^ 12) hnf ht (by decide)

end Sys2Proof.Machine
end

section
/-! SYN by its guards (R178): its errors, the one next state it answers in RUN and SYNTH mode, and shaping and
conversion by the value of their field (R176, R241, R242). -/

namespace Sys2Proof.Machine

open Sys2Proof.Safety

theorem inRun_of_run {m : Mode} {s : State} (hs : s.st = .run) (hm : s.ctrl.mode = m)
    (body : Host.Outcome State Fault Refusal) : inRun m s body = body := by
  rw [inRun, if_pos hs, if_pos hm]

theorem inRun_of_mode_ne {m : Mode} {s : State} (hs : s.st = .run) (hm : s.ctrl.mode ≠ m)
    (body : Host.Outcome State Fault Refusal) : inRun m s body = raiseErr .mode s := by
  rw [inRun, if_pos hs, if_neg hm]

theorem inRun_of_not_run {s : State} (hs : s.st ≠ .run) (m : Mode) (body : Host.Outcome State Fault Refusal) :
    inRun m s body = raiseErr .badState s := if_neg hs

variable {s : State}

theorem errWith_syn_of_not_run (hs : s.st ≠ .run) : ErrWith .syn s 4 :=
  errWith_of_raiseErr (i := .syn) (c := .badState) (inRun_of_not_run hs ..)

theorem errWith_syn_of_filter (hs : s.st = .run) (hm : s.ctrl.mode = .filter) : ErrWith .syn s 5 :=
  errWith_of_raiseErr (i := .syn) (c := .mode) (inRun_of_mode_ne hs (by rw [hm]; decide) _)

/-- What START has checked keeps SYN from both faults: it answers the converted sample, moves the phase and notes the
clip. -/
theorem okWith_syn (hs : s.st = .run) (hm : s.ctrl.mode = .synth) (hfs : s.cfgFs.toNat ≠ 0)
    (hpos : 1 ≤ s.cfgT.toNat) (hle : s.cfgT.toNat ≤ 4096) :
    OkWith .syn s (widenSample (convertSample s.ctrl.ovf (synRaw s)))
      (noteClip (convertClips (synRaw s)) (advancePhase (synIndex s) s)) := by
  have hdiv : ¬(s.cfgFs = 0 ∨ s.cfgT = 0) := by
    rintro (h | h)
    · exact hfs (by rw [h]; rfl)
    · exact absurd hpos (by rw [h]; decide)
  have hentry : ¬synIndex s ≥ Config.tMax := not_le.2 ((synIndex_lt hpos).trans_le hle)
  refine okWith_of_respond ?_
  rw [exec, execSyn, inRun_of_run hs hm, if_neg hdiv, if_neg hentry]

/-- PA_IDX is wide enough for every index of the table. -/
theorem toNat_paIdx_advancePhase {idx : Nat} (h : idx < 4096) (s : State) : (advancePhase idx s).paIdx.toNat = idx :=
  Nat.mod_eq_of_lt h

theorem shapeValue_negabs (r : Int) : shapeValue .negabs r = -|r| := by
  change (if r < 0 then r else -r) = -|r|
  split
  · next hr => rw [abs_of_neg hr, neg_neg]
  · next hr => rw [abs_of_nonneg (not_lt.1 hr)]

theorem convertSample_sat (v : Int) : convertSample .sat v = max (-32768) (min 32767 (truncRaw v)) :=
  clamp_eq _ _ _ (by decide)

theorem convertSample_wrap (v : Int) : convertSample .wrap v = (truncRaw v + 32768) % 65536 - 32768 :=
  sext_sixteen _

theorem convertClips_eq (v : Int) : convertClips v = decide (truncRaw v < -32768 ∨ 32767 < truncRaw v) := by
  rw [Bool.eq_iff_iff, convertClips, clips_iff, decide_eq_true_iff]

end Sys2Proof.Machine
end

section
/-! The family of 42_synth.md. -/

namespace Sys2Proof.Proofs

open Sys2Proof.Machine Sys2Proof.Safety

/-- Settles O23: `okWith_syn` gives the response and the whole next state; shaping and conversion are read off by the
value of SHAPE and OVF. -/
theorem synProducesOneSample : Obligations.SynProducesOneSample := by
  refine ⟨fun s hs hm hfs hpos hle => ?sample, fun s => errWith_syn_of_not_run, fun s => errWith_syn_of_filter⟩
  case sample =>
    refine ⟨noteClip (convertClips (synRaw s)) (advancePhase (synIndex s) s), synIndex s, _, synRaw s,
      truncRaw (synRaw s), convertSample s.ctrl.ovf (synRaw s), rfl, rfl, ?shaped, rfl, ?converted,
      okWith_syn hs hm hfs hpos hle, BitVec.toNat_add _ _, ?index, ?clip, rfl⟩
    case shaped =>
      cases hshape : s.ctrl.shape with
      | negabs => rw [synRaw, synProduct, hshape, shapeValue_negabs]; rfl
      | ident => rw [synRaw, synProduct, hshape]; rfl
    case converted =>
      cases s.ctrl.ovf with
      | sat => exact convertSample_sat _
      | wrap => exact convertSample_wrap _
    case index => exact toNat_paIdx_advancePhase ((synIndex_lt hpos).trans_le hle) s
    case clip => rw [noteClip_clip, convertClips_eq, advancePhase_clip]

/-- Settles O24: the invariant holds what START has checked, which bounds the index and the product and makes SYN
answer (`okWith_syn`). -/
theorem synIndexStaysInTheTable : Obligations.SynIndexStaysInTheTable := by
  intro s hinv hs hm
  obtain ⟨hpos, hle, hf, -⟩ := hinv.run_synth hs hm
  have hidx := synIndex_lt hpos
  exact ⟨hidx, by omega, phaseProduct_lt (hinv.run_rate hs) hf hle, _, okWith_syn hs hm (by omega) hpos hle,
    toNat_paIdx_advancePhase (hidx.trans_le hle) s⟩

/-- Settles O25: both periods add a multiple of `T` to the quotient (`nextIndex_add`). At 8000, 1000 and 256 the index
is 32 times the tick, so no tick below 8 returns to 0; at the wrap of `n` the index of the counterexample is not 0. -/
theorem indexSequenceIsPeriodic : Obligations.IndexSequenceIsPeriodic := by
  refine ⟨fun n f t fs P hfs _ hP => ?table, fun n f t fs q hfs _ hq => ?rate,
    ⟨nextIndex_add (k := 1) (by decide) (by decide), fun p hpos hlt => ⟨0, ?least⟩⟩,
    2 ^ 64 - 44100, by decide, by decide⟩
  case table => exact nextIndex_add (k := t) hfs (by rw [hP]; ring) n
  case rate => exact nextIndex_add (k := 1) hfs (by rw [hq, mul_one]) n
  case least => simp only [nextIndex]; omega

end Sys2Proof.Proofs
end

section
/-! FLT by its guards (R223): its errors, the one next state it answers in RUN and FILTER mode, its sums over the
histories before the pushes (R222), and what the output store keeps (R244). -/

namespace Sys2Proof.Machine

open Sys2Proof.Safety

/-- The data a FLT answers (R72, R241). -/
abbrev fltData (smp : SampleWord) (s : State) : RespData := widenSample (convertSample s.ctrl.ovf (fltRaw smp s))

/-- The state a FLT leaves, before its response (R220 to R223). -/
abbrev fltState (smp : SampleWord) (s : State) : State :=
  noteClip (convertClips (fltRaw smp s)) (storeOutput (pushSample smp s))

section Guards

variable {s : State}

theorem errWith_flt_of_not_run (hs : s.st ≠ .run) (smp : SampleWord) : ErrWith (.flt smp) s 4 :=
  errWith_of_raiseErr (i := .flt smp) (c := .badState) (inRun_of_not_run hs ..)

theorem errWith_flt_of_synth (hs : s.st = .run) (hm : s.ctrl.mode = .synth) (smp : SampleWord) :
    ErrWith (.flt smp) s 5 :=
  errWith_of_raiseErr (i := .flt smp) (c := .mode) (inRun_of_mode_ne hs (by rw [hm]; decide) _)

/-- The order START has checked keeps FLT from its fault. -/
theorem okWith_flt (hs : s.st = .run) (hm : s.ctrl.mode = .filter) (hn : order s ≤ 64) (smp : SampleWord) :
    OkWith (.flt smp) s (fltData smp s) (fltState smp s) := by
  have hentries : ¬order s > Config.nMax := not_lt.2 hn
  refine okWith_of_respond ?_
  rw [exec, execFlt, inRun_of_run hs hm, if_neg hentries]

end Guards

section Histories

variable {s : State} (hn : order s ≤ 64) (smp : SampleWord)
include hn

theorem read_fltState_x (i : Nat) : Bank.read (fltState smp s).x i =
    if i = 0 then smp else if i < order s then Bank.read s.x (i - 1) else Bank.read s.x i :=
  read_pushHistory hn smp s.x i

/-- The output store touches index 0 only, so above it the push alone is seen. -/
theorem read_fltState_y {i : Nat} (hi : i ≠ 0) : Bank.read (fltState smp s).y i =
    if i < order s then Bank.read s.y (i - 1) else Bank.read s.y i := by
  rw [noteClip_y, storeOutput_y, pushSample_y, Bank.read_write_other _ _ _ _ hi, read_pushHistory hn, if_neg hi]

/-- R222's sums over the pushed histories, read off the histories before the pushes: at index 0 stands the new sample,
and every other factor has moved up by one. -/
theorem filterSum_pushSample :
    filterSum (order s) s.b s.a (pushSample smp s).x (pushSample smp s).y =
      ∑ i ∈ Finset.range (order s),
          (Bank.read s.b i).toInt * (if i = 0 then smp.toInt else (Bank.read s.x (i - 1)).toInt) * 2 ^ 24
        - ∑ i ∈ Finset.Ico 1 (order s), (Bank.read s.a i).toInt * (Bank.read s.y (i - 1)).toInt := by
  rw [filterSum, sumBelow_eq_sum, sumBelow_eq_sum, Finset.sum_Ico_eq_sum_range]
  congr 1
  · refine Finset.sum_congr rfl fun i hi => ?_
    rw [pushSample_x, read_pushHistory hn, if_pos (Finset.mem_range.1 hi), apply_ite BitVec.toInt]
    rfl
  · refine Finset.sum_congr rfl fun i hi => ?_
    have hlt : i + 1 < order s := Nat.add_lt_of_lt_sub (Finset.mem_range.1 hi)
    rw [pushSample_y, read_pushHistory hn, if_neg i.succ_ne_zero, if_pos hlt, Nat.add_comm 1 i]

end Histories

theorem read_fltState_y_zero (smp : SampleWord) (s : State) :
    Bank.read (fltState smp s).y 0 = bitsOf 48 (fltRaw smp s) :=
  Bank.read_write_same _ _ _ (by decide)

/-- `fdiv` by 2^24 is the floor of the exact quotient (R10). -/
theorem floorDiv_one (v : Int) : floorDiv v Config.one = ⌊(v : ℚ) / 2 ^ 24⌋ := by
  rw [floorDiv_pos v (by decide)]
  exact_mod_cast (Rat.floor_intCast_div_natCast v (2 ^ 24)).symm

theorem yStore_eq (v : Int) : yStore v = max (-2 ^ 47) (min (2 ^ 47 - 1) v) := clamp_eq _ _ _ (by decide)

/-- A stored output fits its 48-bit entry, so the entry reads back as the value (R244). -/
theorem toInt_bitsOf_yStore (v : Int) : (bitsOf 48 (yStore v)).toInt = yStore v := by
  refine toInt_bitsOf 48 _ ?_ ?_ (by decide) <;> rw [yStore_eq] <;> omega

theorem yStoreSaturates_eq (v : Int) : yStoreSaturates v = decide (v < -2 ^ 47 ∨ 2 ^ 47 - 1 < v) :=
  (Bool.decide_or ..).symm

end Sys2Proof.Machine
end

section
/-! Runs of FLTs (R212): each tick moves the histories up by one, so a value is found as many places up as there were
ticks since it was put there. -/

namespace Sys2Proof.Machine

open Sys2Proof.Safety

/-- The states in which FLT answers: RUN in FILTER mode, with an order the files have entries for. -/
structure FilterReady (s : State) : Prop where
  run : s.st = .run
  filter : s.ctrl.mode = .filter
  order_le : order s ≤ 64

/-- The state a FLT leaves, its response delivered. -/
def afterFlt (s : State) (smp : SampleWord) : State := addResponse .ok (fltData smp s) (fltState smp s)

/-- The state one FLT per sample leaves. -/
def afterFlts (vs : List SampleWord) (s : State) : State := vs.foldl afterFlt s

theorem afterFlts_append (vs ws : List SampleWord) (s : State) :
    afterFlts (vs ++ ws) s = afterFlts ws (afterFlts vs s) :=
  List.foldl_append

theorem order_afterFlts (vs : List SampleWord) (s : State) : order (afterFlts vs s) = order s := by
  induction vs generalizing s with
  | nil => rfl
  | cons v vs ih => exact ih (afterFlt s v)

namespace FilterReady

variable {s : State}

theorem ready_afterFlt (hs : FilterReady s) (v : SampleWord) : FilterReady (afterFlt s v) :=
  ⟨hs.run, hs.filter, hs.order_le⟩

theorem ready_afterFlts (hs : FilterReady s) (vs : List SampleWord) : FilterReady (afterFlts vs s) := by
  induction vs generalizing s with
  | nil => exact hs
  | cons v vs ih => exact ih (hs.ready_afterFlt v)

/-- Every list of samples can be filtered. -/
theorem filterTicks_eq (hs : FilterReady s) (vs : List SampleWord) :
    filterTicks vs s = .next (afterFlts vs s) := by
  induction vs generalizing s with
  | nil => rfl
  | cons v vs ih =>
    have hexec : exec (.flt v) s = .next (afterFlt s v) := okWith_flt hs.run hs.filter hs.order_le v
    rw [filterTicks, hexec]
    exact ih (hs.ready_afterFlt v)

/-- A FLT puts its sample at index 0. -/
theorem read_x_zero (hs : FilterReady s) (v : SampleWord) : Bank.read (afterFlt s v).x 0 = v :=
  read_fltState_x hs.order_le v 0

/-- A FLT moves an entry up by one. -/
theorem read_succ (hs : FilterReady s) (v : SampleWord) {i : Nat} (hi : i + 1 < order s) :
    Bank.read (afterFlt s v).x (i + 1) = Bank.read s.x i ∧
      Bank.read (afterFlt s v).y (i + 1) = Bank.read s.y i :=
  ⟨(read_fltState_x hs.order_le v _).trans ((if_neg i.succ_ne_zero).trans (if_pos hi)),
    (read_fltState_y hs.order_le v i.succ_ne_zero).trans (if_pos hi)⟩

/-- A FLT leaves the entries from `N` on. -/
theorem read_of_order_le (hs : FilterReady s) (v : SampleWord) {i : Nat} (hpos : 1 ≤ order s) (hi : order s ≤ i) :
    Bank.read (afterFlt s v).x i = Bank.read s.x i ∧ Bank.read (afterFlt s v).y i = Bank.read s.y i := by
  have hne : i ≠ 0 := by omega
  exact ⟨(read_fltState_x hs.order_le v i).trans ((if_neg hne).trans (if_neg hi.not_gt)),
    (read_fltState_y hs.order_le v hne).trans (if_neg hi.not_gt)⟩

/-- Below `N`, an entry is found as many places up as FLTs were performed. -/
theorem read_add_length (hs : FilterReady s) (vs : List SampleWord) {i : Nat} (hi : i + vs.length < order s) :
    Bank.read (afterFlts vs s).x (i + vs.length) = Bank.read s.x i ∧
      Bank.read (afterFlts vs s).y (i + vs.length) = Bank.read s.y i := by
  induction vs generalizing s i with
  | nil => exact ⟨rfl, rfl⟩
  | cons v vs ih =>
    rw [List.length_cons, ← Nat.add_assoc, Nat.add_right_comm] at hi ⊢
    obtain ⟨hx, hy⟩ := hs.read_succ v (i := i) (by omega)
    obtain ⟨hx', hy'⟩ := ih (hs.ready_afterFlt v) hi
    exact ⟨hx'.trans hx, hy'.trans hy⟩

/-- The entries from `N` on stay through a run of FLTs. -/
theorem read_afterFlts_of_order_le (hs : FilterReady s) (vs : List SampleWord) {i : Nat} (hpos : 1 ≤ order s)
    (hi : order s ≤ i) : Bank.read (afterFlts vs s).x i = Bank.read s.x i ∧
      Bank.read (afterFlts vs s).y i = Bank.read s.y i := by
  induction vs generalizing s with
  | nil => exact ⟨rfl, rfl⟩
  | cons v vs ih =>
    obtain ⟨hx, hy⟩ := hs.read_of_order_le v hpos hi
    obtain ⟨hx', hy'⟩ := ih (hs.ready_afterFlt v) hpos hi
    exact ⟨hx'.trans hx, hy'.trans hy⟩

/-- The last `j` FLTs of a run have moved to index `j` what stood at index 0 before them. -/
theorem read_eq_read_take_zero (hs : FilterReady s) (vs : List SampleWord) {j : Nat} (hj : j ≤ vs.length)
    (hlt : j < order s) :
    Bank.read (afterFlts vs s).x j = Bank.read (afterFlts (vs.take (vs.length - j)) s).x 0 ∧
      Bank.read (afterFlts vs s).y j = Bank.read (afterFlts (vs.take (vs.length - j)) s).y 0 := by
  have hlen : (vs.drop (vs.length - j)).length = j := by rw [List.length_drop, Nat.sub_sub_self hj]
  have hsplit : afterFlts vs s =
      afterFlts (vs.drop (vs.length - j)) (afterFlts (vs.take (vs.length - j)) s) := by
    rw [← afterFlts_append, List.take_append_drop]
  have hmoved := (hs.ready_afterFlts (vs.take (vs.length - j))).read_add_length (vs.drop (vs.length - j)) (i := 0)
    (by rwa [hlen, order_afterFlts, Nat.zero_add])
  rwa [hlen, Nat.zero_add, ← hsplit] at hmoved

/-- After a run of FLTs, index 0 of the input history holds the run's last sample. -/
theorem read_x_zero_afterFlts_take (hs : FilterReady s) (vs : List SampleWord) {k : Nat} (hk : k < vs.length) :
    Bank.read (afterFlts (vs.take (k + 1)) s).x 0 = vs[k] := by
  rw [List.take_succ_eq_append_getElem hk, afterFlts_append]
  exact (hs.ready_afterFlts _).read_x_zero _

end FilterReady

end Sys2Proof.Machine
end

section
/-! The index guard of the file commands (R261). -/

namespace Sys2Proof.Machine

open Sys2Proof.Safety

/-- A command guarded by its index fails with BAD_INDEX beyond the file, in every state. -/
theorem errWith_of_withEntry {i : Instr} {s : State} {k : Nat} {body : Host.Outcome State Fault Refusal}
    (h : exec i s = withEntry k s body) (hk : 64 ≤ k) : ErrWith i s 2 :=
  errWith_of_raiseErr (c := .badIndex) (h.trans (if_neg hk.not_gt))

end Sys2Proof.Machine
end

section
/-! The family of 43_filter.md. -/

namespace Sys2Proof.Proofs

open Sys2Proof.Machine Sys2Proof.Safety

/-- Settles O31: `okWith_flt` gives the response and the whole next state; each value and entry of it is the lemma of
its rule. -/
theorem fltProducesOneSample : Obligations.FltProducesOneSample := by
  refine ⟨fun s smp hs hm hn => ?sample, fun s smp hs => errWith_flt_of_not_run hs smp,
    fun s smp hs hm => errWith_flt_of_synth hs hm smp⟩
  case sample =>
    refine ⟨fltState smp s, _, filterQuotient (pushSample smp s), fltRaw smp s, truncRaw (fltRaw smp s),
      convertSample s.ctrl.ovf (fltRaw smp s), filterSum_pushSample hn smp, floorDiv_one _, yStore_eq _, rfl,
      ?converted, okWith_flt hs hm hn smp, fun i _ => read_fltState_x hn smp i, ?stored,
      fun i hi _ => read_fltState_y hn smp (by omega), ?clip, ?ysat, rfl⟩
    case converted =>
      cases s.ctrl.ovf with
      | sat => exact convertSample_sat _
      | wrap => exact convertSample_wrap _
    case stored => rw [read_fltState_y_zero, toInt_bitsOf_yStore]
    case clip => rw [noteClip_clip, convertClips_eq, storeOutput_clip, pushSample_clip]
    case ysat => rw [noteClip_ysat, storeOutput_ysat, yStoreSaturates_eq, pushSample_ysat]

/-- Settles O34: a run of FLTs moves the entries up by its length (`FilterReady.read_add_length`); cut before its last
`j` ticks, it shows at index `j` the sample and the output of the tick before the cut. -/
theorem historiesHoldTheMostRecentValues : Obligations.HistoriesHoldTheMostRecentValues := by
  intro vs s hrun hfilter hpos hle
  have hs : FilterReady s := ⟨hrun, hfilter, hle⟩
  refine ⟨afterFlts vs s, hs.filterTicks_eq vs, fun j hj => ⟨fun hlt => ?recent, fun hge => ?older⟩,
    fun j hj _ => hs.read_afterFlts_of_order_le vs hpos hj⟩
  case recent =>
    obtain ⟨hx, hy⟩ := hs.read_eq_read_take_zero vs hlt.le hj
    refine ⟨?_, afterFlts (vs.take (vs.length - j)) s, hs.filterTicks_eq _, hy⟩
    have hlast : vs.length - 1 - j < vs.length := by omega
    rw [hx, show vs.length - j = vs.length - 1 - j + 1 by omega, hs.read_x_zero_afterFlts_take vs hlast]
    exact List.getElem?_eq_getElem hlast
  case older =>
    have hmoved := hs.read_add_length vs (i := j - vs.length) (by rwa [Nat.sub_add_cancel hge])
    rwa [Nat.sub_add_cancel hge] at hmoved

/-- Settles O29: past the guards of R201 the write leaves `Bank.write` in the file and nothing else, and the file's
read-after-write laws give its entries. -/
theorem coefficientWritesStoreOneEntry : Obligations.CoefficientWritesStoreOneEntry := fun s _ v =>
  ⟨fun hi hs =>
      ⟨⟨_, okWith_wrcb hi hs v, Bank.read_write_same s.b _ v hi, fun _ => Bank.read_write_other s.b _ _ v, rfl⟩,
        ⟨_, okWith_wrca hi hs v, Bank.read_write_same s.a _ v hi, fun _ => Bank.read_write_other s.a _ _ v, rfl⟩⟩,
    fun hi hs => ⟨errWith_wrcb_of_not_config hs hi v, errWith_wrca_of_not_config hs hi v⟩,
    fun hi => ⟨errWith_of_withEntry rfl hi, errWith_of_withEntry rfl hi⟩⟩

/-- Settles O30: `read_pushHistory`, which needs no lower bound on the length. -/
theorem pushShiftsTheHistory : Obligations.PushShiftsTheHistory := fun _ _ v f _ hlen i _ =>
  read_pushHistory hlen v f i

/-- Settles O28: `widenEntry` is the sign extension, and the index is the only guard. -/
theorem fileReadsAnswerTheEntry : Obligations.FileReadsAnswerTheEntry := fun s _ =>
  ⟨fun hi => ⟨okWith_rdcb hi s, okWith_rdca hi s, okWith_rdhx hi s, okWith_rdhy hi s⟩,
    fun hi => ⟨errWith_of_withEntry rfl hi, errWith_of_withEntry rfl hi, errWith_of_withEntry rfl hi,
      errWith_of_withEntry rfl hi⟩⟩

end Sys2Proof.Proofs
end

section
/-! The conversion unit's own laws: where truncation toward zero stands to a multiple of 2^24 (R240, R246), what a raw
value converts to when its truncation is in range, and what the clamps of R241 and R244 reach and leave alone. -/

namespace Sys2Proof.Machine

theorem truncRaw_eq_tdiv (v : Int) : truncRaw v = Int.tdiv v (2 ^ 24) := rfl

/-- Truncation toward zero divides the magnitude and keeps the sign (R240). -/
theorem truncRaw_eq_sign_mul (v : Int) : truncRaw v = v.sign * (|v| / 2 ^ 24) := by
  rcases lt_trichotomy v 0 with hneg | rfl | hpos
  · have hmagnitude : truncRaw (-v) = -v / 2 ^ 24 := Int.tdiv_eq_ediv_of_nonneg (by omega)
    rw [Int.sign_eq_neg_one_of_neg hneg, abs_of_neg hneg, ← hmagnitude, truncRaw_neg, neg_one_mul, neg_neg]
  · rfl
  · rw [Int.sign_eq_one_of_pos hpos, abs_of_pos hpos, one_mul]
    exact Int.tdiv_eq_ediv_of_nonneg hpos.le

theorem truncRaw_mul_one (k : Int) : truncRaw (k * 2 ^ 24) = k := Int.mul_tdiv_cancel k (by decide)

theorem truncRaw_mono {v v' : Int} (h : v ≤ v') : truncRaw v ≤ truncRaw v' := Int.tdiv_le_tdiv (by decide) h

theorem truncRaw_eq_zero {v : Int} (hlo : -2 ^ 24 < v) (hhi : v < 2 ^ 24) : truncRaw v = 0 := by
  obtain ⟨hnonneg, hnonpos⟩ := truncRaw_spec v
  omega

/-- Below zero, truncation rounds up, so it is at most `k` only from `k * 2^24` down. -/
theorem truncRaw_le_iff {k : Int} (hk : k < 0) (v : Int) : truncRaw v ≤ k ↔ v ≤ k * 2 ^ 24 := by
  obtain ⟨hnonneg, hnonpos⟩ := truncRaw_spec v
  omega

/-- Above zero, truncation rounds down: `truncRaw_le_iff` of the negated value. -/
theorem le_truncRaw_iff {k : Int} (hk : 0 < k) (v : Int) : k ≤ truncRaw v ↔ k * 2 ^ 24 ≤ v := by
  have hneg := truncRaw_le_iff (neg_lt_zero.2 hk) (-v)
  rwa [truncRaw_neg, neg_le_neg_iff, neg_mul, neg_le_neg_iff] at hneg

theorem convertSample_of_in_range (ovf : Ovf) {v : Int} (hlo : -32768 ≤ truncRaw v) (hhi : truncRaw v ≤ 32767) :
    convertSample ovf v = truncRaw v :=
  narrowSample_of_in_range ovf _ ⟨hlo, hhi⟩

theorem convertClips_iff (v : Int) : convertClips v = true ↔ truncRaw v < -32768 ∨ 32767 < truncRaw v :=
  clips_iff _

theorem convertSample_sat_mono {v v' : Int} (h : v ≤ v') : convertSample .sat v ≤ convertSample .sat v' := by
  rw [convertSample_sat, convertSample_sat]
  exact max_le_max_left _ (min_le_min_left _ (truncRaw_mono h))

theorem convertSample_sat_eq_min_iff (v : Int) : convertSample .sat v = -32768 ↔ v ≤ -32768 * 2 ^ 24 := by
  rw [← truncRaw_le_iff (by decide), convertSample_sat]
  omega

theorem convertSample_sat_eq_max_iff (v : Int) : convertSample .sat v = 32767 ↔ 32767 * 2 ^ 24 ≤ v := by
  rw [← le_truncRaw_iff (by decide), convertSample_sat]
  omega

/-- A truncation whose negation is a sample as well converts to the negated sample (R246 (c)). -/
theorem convertSample_neg (ovf : Ovf) {v : Int} (hlo : -32767 ≤ truncRaw v) (hhi : truncRaw v ≤ 32767) :
    convertSample ovf (-v) = -convertSample ovf v := by
  have hneg := truncRaw_neg v
  calc convertSample ovf (-v) = truncRaw (-v) := convertSample_of_in_range ovf (by omega) (by omega)
    _ = -truncRaw v := hneg
    _ = -convertSample ovf v := by rw [convertSample_of_in_range ovf (by omega) hhi]

theorem yStoreSaturates_iff (v : Int) : yStoreSaturates v = true ↔ v < -2 ^ 47 ∨ 2 ^ 47 - 1 < v := by
  rw [yStoreSaturates_eq, decide_eq_true_iff]

/-- YSAT is set exactly where the clamp changes the value (R244). -/
theorem yStoreSaturates_iff_yStore_ne (v : Int) : yStoreSaturates v = true ↔ yStore v ≠ v := by
  rw [yStoreSaturates_iff, yStore_eq]
  omega

end Sys2Proof.Machine
end

section
/-! The family of 44_fixed_point.md. -/

namespace Sys2Proof.Proofs

open Sys2Proof.Machine

/-- Settles O36: the two forms of the truncation, each policy's formula on it, and the range of every sample. -/
theorem convertTruncatesThenSaturatesOrWraps : Obligations.ConvertTruncatesThenSaturatesOrWraps := fun v =>
  ⟨truncRaw_eq_tdiv v, truncRaw_eq_sign_mul v, convertSample_sat v, convertSample_wrap v,
    fun ovf => narrowSample_range ovf (truncRaw v), convertClips_iff v⟩

/-- Settles O37: (a), (c) and (e) speak of truncations in range, where both policies keep the truncation; (b) and (d)
are the monotonicity and the two ends of the clamp. -/
theorem convertLaws : Obligations.ConvertLaws := by
  refine ⟨fun ovf k hlo hhi => ?multiple, fun v v' => convertSample_sat_mono, fun ovf v hlo hhi => ?odd,
    fun v => ⟨convertSample_sat_eq_min_iff v, convertSample_sat_eq_max_iff v⟩, fun ovf v hlo hhi => ?zero⟩
  case multiple =>
    have htrunc := truncRaw_mul_one k
    refine ⟨(convertSample_of_in_range ovf (by omega) (by omega)).trans htrunc, ?_⟩
    rw [← Bool.not_eq_true, convertClips_iff]
    omega
  case odd => rw [convertSample_neg ovf hlo hhi, mul_neg_one, neg_neg]
  case zero =>
    have htrunc := truncRaw_eq_zero hlo hhi
    exact (convertSample_of_in_range ovf (by omega) (by omega)).trans htrunc

/-- Settles O38: YSAT and the read-back are the two laws of the clamp, which takes no policy. -/
theorem yStoreAlwaysSaturates : Obligations.YStoreAlwaysSaturates := fun yq =>
  ⟨yStore_eq yq, yStoreSaturates_iff_yStore_ne yq, yStoreSaturates_iff yq, toInt_bitsOf_yStore yq⟩

end Sys2Proof.Proofs
end

section
/-! R263's table read with the model's guards: a CTRL value that cannot be stored, an operating state left over by a
failed guard, and the code of WRREG by the register its address names. -/

namespace Sys2Proof.Machine

open Sys2Proof.Safety

theorem OpState.eq_run_or_fault {st : OpState} (h : st ≠ .config) : st = .run ∨ st = .fault := by
  cases st with
  | config => exact absurd rfl h
  | run => exact .inl rfl
  | fault => exact .inr rfl

theorem OpState.eq_config_or_fault {st : OpState} (h : st ≠ .run) : st = .config ∨ st = .fault := by
  cases st with
  | config => exact .inl rfl
  | run => exact absurd rfl h
  | fault => exact .inr rfl

/-- CTRL refuses exactly the values of 8 or more (R123). -/
theorem ctrlOfWord_eq_none_iff {v : RegWord} : ctrlOfWord v = none ↔ 8 ≤ v.toNat := by
  refine ⟨fun h => not_lt.1 fun hv => ?_, ctrlOfWord_eq_none⟩
  obtain ⟨c, rfl⟩ := exists_word_eq hv
  cases h.symm.trans (ctrlOfWord_word c)

theorem toNat_le_of_registerAt {a : Index} {r : RegName} (h : registerAt a = some r) : a.toNat ≤ 0x00A :=
  not_lt.1 fun ha => by cases h.symm.trans ((registerAt_none a).2 ha)

section Wrreg

variable {s : State} {a : Index} {v : RegWord}

theorem legalityCode_wrreg_of_none (h : registerAt a = none) : legalityCode (.wrreg a v) s = 2 :=
  if_pos ((registerAt_none a).1 h)

theorem legalityCode_wrreg_of_readOnly {r : RegName} (h : registerAt a = some r)
    (hr : r = .id ∨ r = .params ∨ r = .paNLo ∨ r = .paNHi ∨ r = .paIdx) : legalityCode (.wrreg a v) s = 3 := by
  have haddr := registerAt_some a r h
  obtain rfl | rfl | rfl | rfl | rfl := hr <;> simp [legalityCode, haddr, RegName.addr]

theorem legalityCode_wrreg_status (h : registerAt a = some .status) : legalityCode (.wrreg a v) s = 0 := by
  simp [legalityCode, registerAt_some a _ h, RegName.addr]

theorem legalityCode_wrreg_of_not_config {r : RegName} (h : registerAt a = some r)
    (hr : r = .ctrl ∨ r = .cfgFs ∨ r = .cfgF ∨ r = .cfgT ∨ r = .cfgN) (hs : s.st ≠ .config) :
    legalityCode (.wrreg a v) s = 4 := by
  have haddr := registerAt_some a r h
  have hlocked := OpState.eq_run_or_fault hs
  obtain rfl | rfl | rfl | rfl | rfl := hr <;> obtain hs | hs := hlocked <;>
    simp [legalityCode, haddr, RegName.addr, hs]

theorem legalityCode_wrreg_ctrl (h : registerAt a = some .ctrl) (hs : s.st = .config) :
    legalityCode (.wrreg a v) s = if ctrlOfWord v = none then 6 else 0 := by
  simp [legalityCode, registerAt_some a _ h, RegName.addr, hs, ctrlOfWord_eq_none_iff]

theorem legalityCode_wrreg_configValue {r : RegName} (h : registerAt a = some r)
    (hr : r = .cfgFs ∨ r = .cfgF ∨ r = .cfgT ∨ r = .cfgN) (hs : s.st = .config) :
    legalityCode (.wrreg a v) s = 0 := by
  have haddr := registerAt_some a r h
  obtain rfl | rfl | rfl | rfl := hr <;> simp [legalityCode, haddr, RegName.addr, hs]

end Wrreg

end Sys2Proof.Machine
end

section
/-! The three ways a word ends, each with the state it leaves and the code of R263's table (R262, R263). -/

namespace Sys2Proof.Machine

open Sys2Proof.Safety

/-- How a word with response code `code` ends (R262): OK, after whatever the command did; on the error path, which
leaves `failed`; or with START's fault. -/
inductive Ending (s : State) (code : Code) : State → Prop where
  | ok {u : State} {d : RespData} (hcode : code = 0) (hu : u.responses = s.responses) :
      Ending s code (addResponse .ok d u)
  | error (c : RCode) (hcode : code = c.bits) (hc : c ≠ .ok ∧ c ≠ .configFault) : Ending s code (failed c s)
  | configFault (fc : Code) (hcode : code = 7) (hpos : fc ≠ 0) (hle : fc.toNat ≤ 4) :
      Ending s code (addResponse .configFault (fc.setWidth 64) { s with st := .fault, fcode := fc })

/-- Every command that answers ends with the code R263's table gives it. -/
theorem Effect.ending {i : Instr} {s t : State} (he : Effect i s t) : Ending s (legalityCode i s) t := by
  cases he with
  | nop | rdtbl => exact .ok rfl rfl
  | rdreg _ _ _ h => exact .ok (if_neg (toNat_le_of_registerAt h).not_gt) rfl
  | rdregBad _ _ h => exact .error .badIndex (if_pos ((registerAt_none _).1 h)) (by decide)
  | wrregBad _ _ _ h => exact .error .badIndex (legalityCode_wrreg_of_none h) (by decide)
  | wrregReadOnly _ _ _ _ h hr => exact .error .readOnly (legalityCode_wrreg_of_readOnly h hr) (by decide)
  | wrregStatus _ _ _ h => exact .ok (legalityCode_wrreg_status h) rfl
  | wrregState _ _ _ _ h hr hs => exact .error .badState (legalityCode_wrreg_of_not_config h hr hs) (by decide)
  | wrregCtrl _ _ _ _ h hs hc => exact .ok ((legalityCode_wrreg_ctrl h hs).trans (if_neg (by simp [hc]))) rfl
  | wrregValue _ _ _ h hs hc =>
    exact .error .badValue ((legalityCode_wrreg_ctrl h hs).trans (if_pos hc)) (by decide)
  | wrregFs _ _ _ h hs | wrregF _ _ _ h hs | wrregT _ _ _ h hs | wrregN _ _ _ h hs =>
    exact .ok (legalityCode_wrreg_configValue h (by simp) hs) rfl
  | wrtbl _ _ _ hs => exact .ok (by simp only [legalityCode, hs]) rfl
  | rdcb _ _ h | rdca _ _ h | rdhx _ _ h | rdhy _ _ h => exact .ok (if_neg h.not_ge) rfl
  | rdcbBad _ _ h | rdcaBad _ _ h | rdhxBad _ _ h | rdhyBad _ _ h | wrcbBad _ _ _ h | wrcaBad _ _ _ h =>
    exact .error .badIndex (if_pos h) (by decide)
  | wrcb _ _ _ h hs | wrca _ _ _ h hs => exact .ok ((if_neg h.not_ge).trans (by rw [hs])) rfl
  | wrcbState _ _ _ h hs | wrcaState _ _ _ h hs =>
    refine .error .badState ((if_neg h.not_ge).trans ?_) (by decide)
    obtain hs | hs := OpState.eq_run_or_fault hs <;> rw [hs] <;> rfl
  | startOk _ hs hv => exact .ok (by simp only [legalityCode, hs, hv, if_true]) rfl
  | startFails _ hs hv => exact .configFault _ (by simp only [legalityCode, hs, hv, if_false]) hv (validate_le s)
  | wrtblState _ _ _ hs | startState _ hs =>
    refine .error .badState ?_ (by decide)
    obtain hs | hs := OpState.eq_run_or_fault hs <;> simp only [legalityCode, hs] <;> rfl
  | syn _ hs hm | flt _ _ hs hm => exact .ok (by simp only [legalityCode, hs, hm, if_true]) rfl
  | synMode _ hs hm | fltMode _ _ hs hm =>
    exact .error .mode (by simp only [legalityCode, hs, hm, if_false]; rfl) (by decide)
  | synState _ hs | fltState _ _ hs =>
    refine .error .badState ?_ (by decide)
    obtain hs | hs := OpState.eq_config_or_fault hs <;> simp only [legalityCode, hs] <;> rfl

/-- A word that answers ends with ILLEGAL or with its command's code. -/
theorem performWord_ending {cw : CmdWord} {s t : State} (h : performWord cw s = .next t) :
    (∃ e, decode cw = .error e ∧ Ending s 1 t) ∨ (∃ i, decode cw = .ok i ∧ Ending s (legalityCode i s) t) := by
  obtain ⟨e, he, rfl⟩ | ⟨i, hi, hexec⟩ := performWord_next h
  · exact .inl ⟨e, he, .error .illegal rfl (by decide)⟩
  · exact .inr ⟨i, hi, (exec_effect hexec).ending⟩

namespace Ending

variable {s t : State} {code : Code}

/-- An ending delivers one response, with its code (R91). -/
theorem responses_eq (he : Ending s code t) : ∃ d, t.responses = s.responses ++ [⟨code, d⟩] := by
  cases he with
  | ok hcode hu => exact ⟨_, by rw [addResponse_responses, hu, hcode]; rfl⟩
  | error c hcode => exact ⟨0, by rw [hcode]; rfl⟩
  | configFault fc hcode => exact ⟨_, by rw [hcode]; rfl⟩

/-- The code read in the last response is the ending's. -/
theorem code_eq (he : Ending s code t) {c : Code} {d : RespData} (h : t.responses = s.responses ++ [⟨c, d⟩]) :
    c = code := by
  obtain ⟨d', hd⟩ := he.responses_eq
  have hlast : c = code ∧ d = d' := by simpa using h.symm.trans hd
  exact hlast.1

/-- An ending with one of the codes 1 to 6 took the error path (R262). -/
theorem eq_of_error (he : Ending s code t) (hpos : 1 ≤ code.toNat) (hle : code.toNat ≤ 6) :
    t = { s with cerr := true, ccode := code, responses := s.responses ++ [⟨code, 0⟩] } := by
  cases he with
  | ok hcode => subst hcode; exact absurd hpos (by decide)
  | error c hcode => subst hcode; exact failed_eq c s
  | configFault _ hcode => subst hcode; exact absurd hle (by decide)

/-- An ending with code 7 is START's fault, with one of its four fault codes (R134, R262). -/
theorem eq_of_configFault (he : Ending s code t) (h : code.toNat = 7) : ∃ fc : Code, 1 ≤ fc.toNat ∧ fc.toNat ≤ 4 ∧
    t = { s with st := .fault, fcode := fc, responses := s.responses ++ [⟨7, fc.setWidth 64⟩] } := by
  have hseven : code = 7 := BitVec.eq_of_toNat_eq h
  cases he with
  | ok hcode => cases hcode.symm.trans hseven
  | error c hcode hc => exact absurd (c.bits_eq_seven_iff.1 (hcode.symm.trans hseven)) hc.2
  | configFault fc _ hpos hle => exact ⟨fc, Nat.pos_of_ne_zero fun hzero => hpos (BitVec.eq_of_toNat_eq hzero), hle, rfl⟩

end Ending

end Sys2Proof.Machine
end

section
/-! The family of 60_exceptions.md. -/

namespace Sys2Proof.Proofs

open Sys2Proof.Machine Sys2Proof.Safety

/-- Settles O39: every word that answers has an `Ending`, whose code the response shows and whose state each clause
reads off. -/
theorem errorsArePrecise : Obligations.ErrorsArePrecise := by
  intro cw s t c d h hr
  obtain ⟨code, he⟩ : ∃ code, Ending s code t := by
    obtain ⟨_, _, he⟩ | ⟨_, _, he⟩ := performWord_ending h
    · exact ⟨_, he⟩
    · exact ⟨_, he⟩
  obtain rfl := he.code_eq hr
  exact ⟨he.eq_of_error, he.eq_of_configFault⟩

/-- Settles O40: the code of a word's `Ending` is ILLEGAL or the table's (`performWord_ending`), and its response shows
it. -/
theorem responseCodeFollowsTheLegalityTable : Obligations.ResponseCodeFollowsTheLegalityTable := by
  intro cw s t h
  obtain ⟨_, hdecode, he⟩ | ⟨_, hdecode, he⟩ := performWord_ending h
  · rw [hdecode]; exact he.responses_eq
  · rw [hdecode]; exact he.responses_eq

end Sys2Proof.Proofs
end

section
/-! What a step on a reset leaves, and which steps leave RUN or FAULT. -/

namespace Sys2Proof.Machine

/-- A reset while a command is in progress leaves the reset state, whatever the command (R303). -/
theorem step_of_resetDuring {s : State} {cw : CmdWord} {rest : List HostEvent}
    (h : s.inputs = .resetDuring cw :: rest) : step s = .next (applyReset (acceptEvent s)) := by
  unfold step; rw [h]; rfl

/-- The table reads as 0 everywhere after a reset (R45, R300). -/
theorem read_applyReset_tbl (s : State) (i : Nat) : Memory.read (applyReset s).tbl i = 0 := Memory.read_nil i

/-- The coefficients and both histories read as 0 after a reset (R46, R47, R48, R300). -/
theorem read_applyReset_banks (s : State) (i : Nat) :
    Bank.read (applyReset s).b i = 0 ∧ Bank.read (applyReset s).a i = 0 ∧
      Bank.read (applyReset s).x i = 0 ∧ Bank.read (applyReset s).y i = 0 :=
  ⟨Bank.read_replicate i, Bank.read_replicate i, Bank.read_replicate i, Bank.read_replicate i⟩

/-- A word from the host, ILLEGAL or a command, moves the operating state in CONFIG only (R33). -/
theorem performWord_st_of_not_config {cw : CmdWord} {s t : State} (h : performWord cw s = .next t)
    (hs : s.st ≠ .config) : t.st = s.st := by
  obtain ⟨_, _, rfl⟩ | ⟨i, _, hexec⟩ := performWord_next h
  · rfl
  · exact (exec_effect hexec).st_eq_or_start.resolve_right fun hstart => hs hstart.2

/-- Only a reset moves the operating state outside CONFIG (R33, R303). -/
theorem step_is_reset_of_st_ne {s t : State} (h : step s = .next t) (hs : s.st ≠ .config) (hne : t.st ≠ s.st) :
    ∃ rest, s.inputs = .reset :: rest ∨ ∃ cw, s.inputs = .resetDuring cw :: rest := by
  obtain ⟨_, rfl⟩ | ⟨rest, hreset, _⟩ | ⟨cw, rest, _, hword⟩ := step_next h
  · exact absurd rfl hne
  · exact ⟨rest, hreset⟩
  · exact absurd (performWord_st_of_not_config hword hs) hne

end Sys2Proof.Machine
end

section
/-! The family of 70_reset_and_hazards.md. -/

namespace Sys2Proof.Proofs

open Sys2Proof.Machine

/-- Settles O9: a step on either reset is `applyReset`, whose fields and files are R300's values; any other step keeps
an operating state that is not CONFIG. -/
theorem resetPutsEveryElement : Obligations.ResetPutsEveryElement := by
  refine ⟨fun s cw rest hin => ?reset, fun s t h hs hne => ?moves⟩
  case reset =>
    have hstep : step s = .next (applyReset (acceptEvent s)) := hin.elim step_of_reset step_of_resetDuring
    exact ⟨_, hstep, rfl, rfl, rfl, rfl, rfl, rfl, rfl, rfl, rfl, rfl, rfl, rfl, rfl,
      read_applyReset_tbl _, fun i _ => read_applyReset_banks _ i, Nat.zero_le _⟩
  case moves =>
    have hlocked : s.st ≠ .config := by obtain hrun | hfault := hs <;> simp [*]
    exact step_is_reset_of_st_ne h hlocked hne

end Sys2Proof.Proofs
end

section
/-! Encoding and decoding undo each other (R90, R92, R93): a command's fields are those of a decodable word, and clear
reserved fields leave a word nothing but its command's operands. -/

namespace Sys2Proof

open Laws

/-- Every command's own fields name it and leave its format's reserved fields clear. -/
theorem Instr.fieldsClear (i : Instr) : FieldsClear.Statement i := by
  cases i with
  | nop => exact FieldsClear.nop
  | rdreg idx => exact FieldsClear.rdreg idx
  | wrreg idx imm => exact FieldsClear.wrreg idx imm
  | rdtbl idx => exact FieldsClear.rdtbl idx
  | wrtbl idx imm => exact FieldsClear.wrtbl idx imm
  | rdcb idx => exact FieldsClear.rdcb idx
  | wrcb idx imm => exact FieldsClear.wrcb idx imm
  | rdca idx => exact FieldsClear.rdca idx
  | wrca idx imm => exact FieldsClear.wrca idx imm
  | rdhx idx => exact FieldsClear.rdhx idx
  | rdhy idx => exact FieldsClear.rdhy idx
  | start => exact FieldsClear.start
  | syn => exact FieldsClear.syn
  | flt smp => exact FieldsClear.flt smp

theorem decode_encode (i : Instr) : decode (encode i) = .ok i := by
  obtain ⟨hname, fmt, hfmt, hclear⟩ := i.fieldsClear
  exact decode_wordOf i.fields fmt i hfmt hname hclear

/-- Fields that name a command, with their format's reserved fields clear, are the command's own. -/
theorem fields_eq_of_instrOf {f : Fields} {fmt : Format} {i : Instr} (hfmt : formatOf f.op = some fmt)
    (hi : instrOf f = some i) (hclear : fmt.reservedClear f) : i.fields = f := by
  have hop : f.op = i.fields.op := op_of_instrOf hi
  obtain ⟨imm, op, idx, smp⟩ := f
  cases i <;> dsimp only [Instr.fields] at hop <;> subst hop <;> cases hfmt <;> cases hi
  case nop | start | syn => obtain ⟨rfl, rfl, rfl⟩ := hclear; rfl
  case wrreg | wrtbl | wrcb | wrca => obtain rfl := hclear; rfl
  all_goals obtain ⟨rfl, rfl⟩ := hclear; rfl

theorem encode_of_decode {cw : CmdWord} {i : Instr} (h : decode cw = .ok i) : encode i = cw := by
  obtain ⟨fmt, hfmt, hi, hclear⟩ := (decode_eq_ok_iff cw i).1 h
  rw [encode, fields_eq_of_instrOf hfmt hi hclear, wordOf_fieldsOf]

end Sys2Proof
end

section
/-! A table in canonical form is the list of its entries that are not blank. -/

namespace Sys2Proof.Machine

/-- The cells of a canonical table are the indices below `T_MAX` that do not read as blank, each with its entry. -/
theorem Memory.mem_iff_read {m : Memory} (hm : Memory.wf m) (c : Nat × QWord) :
    c ∈ m ↔ c.1 < Config.tMax ∧ Memory.read m c.1 = c.2 ∧ c.2 ≠ Memory.blank := by
  obtain ⟨hrising, hcells⟩ := hm
  constructor
  · intro hc
    obtain ⟨hlt, hne⟩ := hcells c hc
    exact ⟨hlt, Memory.read_of_listed m hrising c hc, hne⟩
  · rintro ⟨-, hread, hne⟩
    have hlisted := Memory.listed_of_read_ne m c.1 (hread ▸ hne)
    rwa [hread] at hlisted

/-- Strictly rising indices: the list is determined by its cells. -/
theorem Memory.eq_of_mem_iff {m m' : Memory} (hm : Memory.wf m) (hm' : Memory.wf m') (h : ∀ c, c ∈ m ↔ c ∈ m') :
    m = m' := by
  have hnodup {l : Memory} (hl : Memory.wf l) : l.Nodup :=
    hl.1.imp fun hlt heq => absurd (congrArg Prod.fst heq) hlt.ne
  have hperm : m.Perm m' := (List.perm_ext_iff_of_nodup (hnodup hm) (hnodup hm')).2 h
  exact hperm.eq_of_pairwise (fun _ _ _ _ hlt hgt => absurd hlt hgt.asymm) hm.1 hm'.1

end Sys2Proof.Machine
end

section
/-! The command that a table row's word and a host's word name (R94). -/

namespace Sys2Proof.Machine

/-- The command a table row's word of 64 bits names is the one its word decodes to. -/
theorem decode_of_decodeTableWord {w : Nat} {i : Instr} (h : decodeTableWord 64 w = some i) :
    decode (BitVec.ofNat 64 (w % 2 ^ 64)) = .ok i := by
  unfold decodeTableWord at h
  split at h
  · next j hj => cases h; exact hj
  · cases h

theorem performWord_of_decode {cw : CmdWord} {i : Instr} (h : decode cw = .ok i) (s : State) :
    performWord cw s = exec i s := by
  rw [performWord, h]

end Sys2Proof.Machine
end

section
/-! What keeps the invariant: each way a command can end, and the reset state. -/

namespace Sys2Proof.Machine

open Sys2Proof.Safety

/-- A response the invariant allows (R91, R261). -/
def LegalResponse (r : Response) : Prop :=
  r.rcode.toNat ≤ 7 ∧ (r.rcode ≠ 0 → r.rcode ≠ 7 → r.rdata = 0) ∧
    (r.rcode = 7 → 1 ≤ r.rdata.toNat ∧ r.rdata.toNat ≤ 4)

theorem legalResponse_ok (d : RespData) : LegalResponse ⟨0, d⟩ :=
  ⟨Nat.zero_le _, fun h => absurd rfl h, fun h => absurd h (by decide : (0 : Code) ≠ 7)⟩

theorem legalResponse_error {c : RCode} (hc : c ≠ .configFault) : LegalResponse ⟨c.bits, 0⟩ :=
  ⟨c.bits_le, fun _ _ => rfl, fun h => absurd (c.bits_eq_seven_iff.1 h) hc⟩

theorem legalResponse_configFault {fc : Code} (hpos : fc ≠ 0) (hle : fc.toNat ≤ 4) :
    LegalResponse ⟨7, fc.setWidth 64⟩ := by
  have hne : fc.toNat ≠ 0 := fun h => hpos (BitVec.eq_of_toNat_eq h)
  have hdata : (fc.setWidth 64).toNat = fc.toNat := by rw [BitVec.toNat_setWidth]; omega
  exact ⟨Nat.le_refl 7, fun _ h => absurd rfl h, fun _ => by dsimp only; omega⟩

/-- The reset state meets the invariant (R300). -/
theorem stateInv_reset : StateInv State.reset where
  tbl_wf := Memory.wf_reset
  run_rate := nofun
  run_synth := nofun
  run_filter := nofun
  tail_zero := nofun
  phase_zero _ := ⟨rfl, rfl⟩
  history_zero _ := ⟨rfl, rfl, rfl⟩
  clip_run _ := rfl
  fault_code := by decide
  error_code := by decide
  responses_legal := nofun

end Sys2Proof.Machine

namespace Sys2Proof.Safety.StateInv

open Sys2Proof.Machine

variable {s : State}

/-- The invariant does not read the host's events. -/
theorem with_inputs (h : StateInv s) (events : List HostEvent) : StateInv { s with inputs := events } :=
  ⟨h.tbl_wf, h.run_rate, h.run_synth, h.run_filter, h.tail_zero, h.phase_zero, h.history_zero, h.clip_run,
    h.fault_code, h.error_code, h.responses_legal⟩

/-- A legal response may be delivered. -/
theorem after_response (h : StateInv s) {r : Response} (hr : LegalResponse r) :
    StateInv { s with responses := s.responses ++ [r] } :=
  { h with
    responses_legal := fun q hq => by
      obtain hq | hq := List.mem_append.1 hq
      · exact h.responses_legal q hq
      · rw [List.mem_singleton.1 hq]; exact hr }

theorem after_ok (h : StateInv s) (d : RespData) : StateInv (addResponse .ok d s) :=
  h.after_response (legalResponse_ok d)

/-- The error path of R262 records a code that may stand in CCODE. -/
theorem after_failed (h : StateInv s) {c : RCode} (hok : c ≠ .ok) (hcf : c ≠ .configFault) :
    StateInv (failed c s) := by
  have hcode : (true = true ↔ c.bits ≠ 0) ∧ c.bits.toNat ≤ 6 := by
    cases c with
    | ok => contradiction
    | configFault => contradiction
    | _ => decide
  have hrecord : StateInv (recordError c s) := { h with error_code := hcode }
  exact hrecord.after_response (legalResponse_error hcf)

/-- Clearing flags keeps the cleared flags clear, and CERR with CCODE (R124). -/
theorem after_clearStatus (h : StateInv s) (v : RegWord) : StateInv (clearStatus v s) :=
  { h with
    clip_run := fun hs => by rw [clearStatus_clip, h.clip_run hs, Bool.false_and]
    history_zero := fun hs => by
      obtain ⟨hx, hy, hysat⟩ := h.history_zero hs
      exact ⟨hx, hy, by rw [clearStatus_ysat, hysat, Bool.false_and]⟩
    error_code := by
      obtain ⟨hiff, hle⟩ := h.error_code
      rw [clearStatus_cerr, clearStatus_ccode]
      cases v.getLsbD 4 with
      | false => simpa using ⟨hiff, hle⟩
      | true => simp }

/-- In CONFIG the invariant asks nothing of the configuration and the coefficients, and of the table its form only. -/
theorem after_configuration (h : StateInv s) (hs : s.st = .config) (ctrl : Ctrl) (cfgFs cfgF cfgT cfgN : RegWord)
    {tbl : Memory} (htbl : Memory.wf tbl) (b a : Bank 32) :
    StateInv { s with ctrl, cfgFs, cfgF, cfgT, cfgN, tbl, b, a } := by
  have hne : s.st ≠ .run := by rw [hs]; decide
  exact
    { h with
      tbl_wf := htbl
      run_rate := fun hr => absurd hr hne
      run_synth := fun hr => absurd hr hne
      run_filter := fun hr => absurd hr hne
      tail_zero := fun hr => absurd hr hne
      phase_zero := fun _ => h.phase_zero fun hr => hne hr.1
      history_zero := fun _ => h.history_zero fun hr => hne hr.1 }

/-- A START that passes validation has checked what RUN asks, and finds the phase and the histories at 0 (R132,
R133). -/
theorem after_start (h : StateInv s) (hs : s.st = .config) (hv : validate s = 0) :
    StateInv { s with st := .run } := by
  have hne : s.st ≠ .run := by rw [hs]; decide
  obtain ⟨hrate, hsynth, hfilter⟩ := validate_zero s hv
  obtain ⟨hn, hidx⟩ := h.phase_zero fun hr => hne hr.1
  obtain ⟨hx, hy, hysat⟩ := h.history_zero fun hr => hne hr.1
  exact
    { h with
      run_rate := fun _ => hrate
      run_synth := fun _ hm => by
        obtain ⟨hpos, hle, hf⟩ := hsynth hm
        exact ⟨hpos, hle, hf, by rw [hidx]; exact hpos⟩
      run_filter := fun _ => hfilter
      tail_zero := fun _ _ i _ _ => by rw [hx, hy]; exact ⟨Bank.read_replicate i, Bank.read_replicate i⟩
      phase_zero := fun _ => ⟨hn, hidx⟩
      history_zero := fun _ => ⟨hx, hy, hysat⟩
      clip_run := fun hr => absurd rfl hr
      fault_code := by
        obtain ⟨hiff, -⟩ := h.fault_code
        have hfcode : s.fcode = 0 := by
          by_contra hfc
          cases hs.symm.trans (hiff.1 hfc)
        rw [hfcode]
        exact ⟨⟨fun hne => absurd rfl hne, nofun⟩, Nat.zero_le 4⟩ }

/-- A START that fails validation records a fault code of 1 to 4 (R134). -/
theorem after_startFails (h : StateInv s) (hs : s.st = .config) (hv : validate s ≠ 0) :
    StateInv (addResponse .configFault ((validate s).setWidth 64)
      { s with st := .fault, fcode := validate s }) := by
  have hne : s.st ≠ .run := by rw [hs]; decide
  have hfault : StateInv { s with st := .fault, fcode := validate s } :=
    { h with
      run_rate := nofun
      run_synth := nofun
      run_filter := nofun
      tail_zero := nofun
      phase_zero := fun _ => h.phase_zero fun hr => hne hr.1
      history_zero := fun _ => h.history_zero fun hr => hne hr.1
      clip_run := fun _ => h.clip_run hne
      fault_code := ⟨⟨fun _ => rfl, fun _ => hv⟩, validate_le s⟩ }
  exact hfault.after_response (legalResponse_configFault hv (validate_le s))

/-- In RUN the invariant lets CLIP hold anything (R52). -/
theorem after_noteClip (h : StateInv s) (hs : s.st = .run) (out : Bool) : StateInv (noteClip out s) :=
  { h with clip_run := fun hr => absurd hs hr }

/-- SYN leaves an index of the table in PA_IDX (R173). -/
theorem after_advancePhase (h : StateInv s) (hs : s.st = .run) (hm : s.ctrl.mode = .synth) :
    StateInv (advancePhase (synIndex s) s) := by
  obtain ⟨hpos, hle, hf, -⟩ := h.run_synth hs hm
  have hidx := synIndex_lt hpos
  exact
    { h with
      run_synth := fun _ _ => ⟨hpos, hle, hf, by rwa [toNat_paIdx_advancePhase (hidx.trans_le hle)]⟩
      phase_zero := fun hr => absurd ⟨hs, hm⟩ hr }

/-- In RUN and FILTER mode the invariant asks of the histories zeros beyond `N` only, and nothing of YSAT. -/
theorem after_history (h : StateInv s) (hs : s.st = .run) (hm : s.ctrl.mode = .filter) {x : Bank 16} {y : Bank 48}
    (htail : ∀ i, s.cfgN.toNat ≤ i → i < 64 → Bank.read x i = 0 ∧ Bank.read y i = 0) (ysat : Bool) :
    StateInv { s with x, y, ysat } :=
  { h with
    tail_zero := fun _ _ => htail
    history_zero := fun hr => absurd ⟨hs, hm⟩ hr }

/-- FLT moves and stores below `N` only (R210, R211). -/
theorem after_flt (h : StateInv s) (hs : s.st = .run) (hm : s.ctrl.mode = .filter) (smp : SampleWord) :
    StateInv (fltState smp s) := by
  obtain ⟨hpos, hle⟩ := h.run_filter hs hm
  have hready : FilterReady s := ⟨hs, hm, hle⟩
  have htail (i : Nat) (hi : s.cfgN.toNat ≤ i) (hlt : i < 64) :
      Bank.read (fltState smp s).x i = 0 ∧ Bank.read (fltState smp s).y i = 0 := by
    obtain ⟨hx, hy⟩ := hready.read_of_order_le smp hpos hi
    obtain ⟨hxzero, hyzero⟩ := h.tail_zero hs hm i hi hlt
    exact ⟨hx.trans hxzero, hy.trans hyzero⟩
  exact (h.after_history hs hm htail (fltState smp s).ysat).after_noteClip hs _

/-- Every command keeps the invariant. -/
theorem after_effect (h : StateInv s) {i : Instr} {t : State} (he : Effect i s t) : StateInv t := by
  cases he with
  | nop | rdreg | rdtbl | rdcb | rdca | rdhx | rdhy => exact h.after_ok _
  | wrregStatus _ _ v => exact (h.after_clearStatus v).after_ok 0
  | wrregCtrl _ _ _ _ _ hs | wrregFs _ _ _ _ hs | wrregF _ _ _ _ hs | wrregT _ _ _ _ hs | wrregN _ _ _ _ hs
  | wrcb _ _ _ _ hs | wrca _ _ _ _ hs =>
    exact (h.after_configuration hs _ _ _ _ _ h.tbl_wf _ _).after_ok 0
  | wrtbl _ i v hs =>
    exact (h.after_configuration hs _ _ _ _ _ (Memory.wf_write s.tbl _ v h.tbl_wf i.isLt) _ _).after_ok 0
  | startOk _ hs hv => exact (h.after_start hs hv).after_ok 0
  | startFails _ hs hv => exact h.after_startFails hs hv
  | syn _ hs hm => exact ((h.after_advancePhase hs hm).after_noteClip hs _).after_ok _
  | flt _ smp hs hm => exact (h.after_flt hs hm smp).after_ok _
  | _ => exact h.after_failed (by decide) (by decide)

/-- Every word, ILLEGAL or a command, keeps the invariant. -/
theorem after_performWord (h : StateInv s) {cw : CmdWord} {t : State} (hw : performWord cw s = .next t) :
    StateInv t := by
  obtain ⟨_, _, rfl⟩ | ⟨i, _, hexec⟩ := performWord_next hw
  · exact h.after_failed (by decide) (by decide)
  · exact h.after_effect (exec_effect hexec)

/-- Every step keeps the invariant. -/
theorem after_step (h : StateInv s) {t : State} (hstep : step s = .next t) : StateInv t := by
  obtain ⟨_, rfl⟩ | ⟨rest, _, rfl⟩ | ⟨cw, rest, _, hword⟩ := step_next hstep
  · exact h
  · exact stateInv_reset.with_inputs rest
  · exact (h.with_inputs rest).after_performWord hword

end Sys2Proof.Safety.StateInv

namespace Sys2Proof.Machine

open Sys2Proof.Safety

/-- Every state of a run from reset meets the invariant. -/
theorem stateInv_of_reachable {s : State} (h : Reachable s) : StateInv s := by
  induction h with
  | start events => exact stateInv_reset.with_inputs events
  | next _ hstep ih => exact ih.after_step hstep

end Sys2Proof.Machine
end

section
/-! Under the invariant no operation stops. -/

namespace Sys2Proof.Machine

open Sys2Proof.Safety

/-- The operation answers a next state: it neither faults nor refuses. -/
def Answers (o : Host.Outcome State Fault Refusal) : Prop := ∃ t, o = .next t

variable {s : State} {body : Host.Outcome State Fault Refusal}

theorem answers_respond (c : RCode) (d : RespData) (s : State) : Answers (respond c d s) := ⟨_, rfl⟩

theorem answers_raiseErr (c : RCode) (s : State) : Answers (raiseErr c s) := ⟨_, rfl⟩

theorem answers_inConfig (hbody : Answers body) : Answers (inConfig s body) := by
  unfold inConfig
  split
  · exact hbody
  · exact answers_raiseErr _ s

theorem answers_withEntry {i : Nat} (hbody : Answers body) : Answers (withEntry i s body) := by
  unfold withEntry
  split
  · exact hbody
  · exact answers_raiseErr _ s

theorem answers_writeCtrl (v : RegWord) (s : State) : Answers (writeCtrl v s) := by
  unfold writeCtrl
  split
  · exact answers_raiseErr _ s
  · exact answers_respond _ _ _

theorem answers_rdreg (a : Index) (s : State) : Answers (execRdreg a s) := by
  cases hr : registerAt a with
  | none => exact ⟨_, errWith_rdreg_of_none hr s⟩
  | some r => exact ⟨_, okWith_rdreg hr s⟩

theorem answers_wrreg (a : Index) (v : RegWord) (s : State) : Answers (execWrreg a v s) := by
  cases hr : registerAt a with
  | none => exact ⟨_, errWith_wrreg_of_none hr s v⟩
  | some r =>
    rw [execWrreg, hr]
    cases r with
    | id | params | paNLo | paNHi | paIdx => exact answers_raiseErr _ s
    | status => exact answers_respond _ _ _
    | ctrl => exact answers_inConfig (answers_writeCtrl v s)
    | cfgFs | cfgF | cfgT | cfgN => exact answers_inConfig (answers_respond _ _ _)

theorem answers_start (s : State) : Answers (execStart s) := by
  refine answers_inConfig ?_
  split
  · exact answers_respond _ _ _
  · exact answers_respond _ _ _

/-- A tick answers outside RUN and in the other engine's mode, so in every state if it does in its own. -/
theorem answers_inRun {m : Mode} (hbody : s.st = .run → s.ctrl.mode = m → Answers (inRun m s body)) :
    Answers (inRun m s body) := by
  by_cases hs : s.st = .run
  · by_cases hm : s.ctrl.mode = m
    · exact hbody hs hm
    · exact ⟨_, inRun_of_mode_ne hs hm body⟩
  · exact ⟨_, inRun_of_not_run hs m body⟩

/-- Under the invariant SYN in RUN and SYNTH mode has a positive rate and a table size in range. -/
theorem okWith_syn_of_inv (h : StateInv s) (hs : s.st = .run) (hm : s.ctrl.mode = .synth) :
    OkWith .syn s (widenSample (convertSample s.ctrl.ovf (synRaw s)))
      (noteClip (convertClips (synRaw s)) (advancePhase (synIndex s) s)) := by
  obtain ⟨hpos, hle, hf, -⟩ := h.run_synth hs hm
  exact okWith_syn hs hm (by omega) hpos hle

/-- Under the invariant FLT in RUN and FILTER mode has an order in range. -/
theorem okWith_flt_of_inv (h : StateInv s) (hs : s.st = .run) (hm : s.ctrl.mode = .filter) (smp : SampleWord) :
    OkWith (.flt smp) s (fltData smp s) (fltState smp s) :=
  okWith_flt hs hm (h.run_filter hs hm).2 smp

theorem answers_syn (h : StateInv s) : Answers (execSyn s) :=
  answers_inRun fun hs hm => ⟨_, okWith_syn_of_inv h hs hm⟩

theorem answers_flt (h : StateInv s) (smp : SampleWord) : Answers (execFlt smp s) :=
  answers_inRun fun hs hm => ⟨_, okWith_flt_of_inv h hs hm smp⟩

/-- Every command answers: what START has checked keeps the ticks from their faults (R245). -/
theorem answers_exec (h : StateInv s) (i : Instr) : Answers (exec i s) := by
  cases i with
  | nop | rdtbl => exact answers_respond _ _ s
  | rdreg a => exact answers_rdreg a s
  | wrreg a v => exact answers_wrreg a v s
  | wrtbl => exact answers_inConfig (answers_respond _ _ _)
  | rdcb | rdca | rdhx | rdhy => exact answers_withEntry (answers_respond _ _ s)
  | wrcb | wrca => exact answers_withEntry (answers_inConfig (answers_respond _ _ _))
  | start => exact answers_start s
  | syn => exact answers_syn h
  | flt smp => exact answers_flt h smp

theorem answers_performWord (h : StateInv s) (cw : CmdWord) : Answers (performWord cw s) := by
  unfold performWord
  split
  · exact answers_raiseErr _ s
  · exact answers_exec h _

theorem answers_step (h : StateInv s) : Answers (step s) := by
  unfold step
  split
  · exact ⟨_, rfl⟩
  · exact answers_performWord (h.with_inputs _) _
  · exact ⟨_, rfl⟩
  · exact ⟨_, rfl⟩

end Sys2Proof.Machine
end

section
/-! SYN by what it reads: the converse of `exec_effect`, the phase it leaves the next SYN (R171, R172), and the value
NEGABS gives (R176, R179). -/

namespace Sys2Proof.Machine

open Sys2Proof.Safety

variable {s t : State}

/-- The guards of a SYN's `Effect` are all that SYN tests. -/
theorem Effect.exec_syn (he : Effect .syn s t) : exec .syn s = .next t := by
  cases he with
  | syn _ hs hm hfs ht hi =>
    have hentry : ¬synIndex s ≥ Config.tMax := not_le.2 hi
    rw [exec, execSyn, inRun_of_run hs hm, if_neg (not_or.2 ⟨hfs, ht⟩), if_neg hentry]
    rfl
  | synMode _ hs hm => exact inRun_of_mode_ne hs hm _
  | synState _ hs => exact inRun_of_not_run hs _ _

/-- A quotient and a remainder carried over an addition (R171). -/
theorem div_add_mod_add_div {c : Nat} (hc : 0 < c) (p d : Nat) : p / c + (p % c + d) / c = (p + d) / c := by
  rw [← Nat.mul_add_div hc, ← Nat.add_assoc, Nat.div_add_mod]

/-- What a SYN in RUN and SYNTH mode leaves of what the next one's index is made of (R172). -/
theorem phase_of_syn {u : State} (hs : s.st = .run) (hm : s.ctrl.mode = .synth) (h : exec .syn s = .next u) :
    s.cfgFs ≠ 0 ∧ u.paIdx.toNat = synIndex s ∧ u.n = s.n + 1 ∧
      u.cfgF = s.cfgF ∧ u.cfgT = s.cfgT ∧ u.cfgFs = s.cfgFs := by
  cases exec_effect h with
  | synMode _ _ hne => exact absurd hm hne
  | synState _ hne => exact absurd hs hne
  | syn _ _ _ hfs _ hi => exact ⟨hfs, toNat_paIdx_advancePhase hi s, rfl, rfl, rfl, rfl⟩

/-- The value NEGABS gives is the entry's negated magnitude, scaled (R176, R177). -/
theorem synRaw_negabs (h : s.ctrl.shape = .negabs) :
    synRaw s = -(|(Memory.read s.tbl (synIndex s)).toInt| * 32767) := by
  rw [synRaw, synProduct, h, shapeValue_negabs, neg_mul]; rfl

/-- The sample the host reads from a converted value's data is the value (R72, R273). -/
theorem sample_convertSample (c : Code) (ovf : Ovf) (v : Int) :
    Response.sample ⟨c, widenSample (convertSample ovf v)⟩ = convertSample ovf v :=
  sample_widenSample c _ (narrowSample_range ovf _)

theorem widenSample_eq_ofInt_sample (c : Code) (ovf : Ovf) (v : Int) :
    widenSample (convertSample ovf v) = BitVec.ofInt 64 (Response.sample ⟨c, widenSample (convertSample ovf v)⟩) := by
  rw [sample_convertSample]; rfl

theorem truncRaw_of_nonneg {v : Int} (h : 0 ≤ v) : truncRaw v = v / 2 ^ 24 := Int.tdiv_eq_ediv_of_nonneg h

/-- Truncation toward zero rounds the value of NEGABS up, so its magnitude down (R179). -/
theorem truncRaw_synRaw_negabs (h : s.ctrl.shape = .negabs) :
    truncRaw (synRaw s) = -(|(Memory.read s.tbl (synIndex s)).toInt| * 32767 / 2 ^ 24) := by
  rw [synRaw_negabs h, truncRaw_neg, truncRaw_of_nonneg (by positivity)]

theorem convertClips_of_in_range {v : Int} (hlo : -32768 ≤ truncRaw v) (hhi : truncRaw v ≤ 32767) :
    convertClips v = false := by
  rw [← Bool.not_eq_true, convertClips_iff]; omega

theorem convertSample_zero (ovf : Ovf) : convertSample ovf 0 = 0 :=
  convertSample_of_in_range ovf (v := 0) (by decide) (by decide)

end Sys2Proof.Machine
end

section
/-! FLT by what it reads: the converse of `exec_effect`, the inputs and the width of its sum (R222), and the flags it
leaves where nothing is out of range. -/

namespace Sys2Proof.Machine

open Sys2Proof.Safety

variable {s t : State}

/-- The guards of a FLT's `Effect` are all that FLT tests. -/
theorem Effect.exec_flt {smp : SampleWord} (he : Effect (.flt smp) s t) : exec (.flt smp) s = .next t := by
  cases he with
  | flt _ _ hs hm hn => exact okWith_flt hs hm hn smp
  | fltMode _ _ hs hm => exact inRun_of_mode_ne hs hm _
  | fltState _ _ hs => exact inRun_of_not_run hs _ _

/-- The quotient a FLT stores, over the histories before the pushes (R222). -/
theorem filterQuotient_pushSample (hn : order s ≤ 64) (smp : SampleWord) :
    filterQuotient (pushSample smp s) = floorDiv
      (∑ i ∈ Finset.range (order s),
          (Bank.read s.b i).toInt * (if i = 0 then smp.toInt else (Bank.read s.x (i - 1)).toInt) * 2 ^ 24
        - ∑ i ∈ Finset.Ico 1 (order s), (Bank.read s.a i).toInt * (Bank.read s.y (i - 1)).toInt) Config.one := by
  have horder : order (pushSample smp s) = order s := rfl
  rw [filterQuotient, horder, pushSample_b, pushSample_a, filterSum_pushSample hn]

/-- Two states agree on all that FLT's sum reads: the order, `B[0..N-1]`, `A[1..N-1]`, and the history entries that are
still below `N` after the pushes (R46, R222). -/
structure SameFilterInput (s u : State) : Prop where
  order_eq : order u = order s
  read_b : ∀ i < order s, Bank.read u.b i = Bank.read s.b i
  read_a : ∀ i, 1 ≤ i → i < order s → Bank.read u.a i = Bank.read s.a i
  read_x : ∀ i, i + 1 < order s → Bank.read u.x i = Bank.read s.x i
  read_y : ∀ i, i + 1 < order s → Bank.read u.y i = Bank.read s.y i

theorem SameFilterInput.filterQuotient_eq {u : State} (h : SameFilterInput s u) (hn : order s ≤ 64)
    (smp : SampleWord) : filterQuotient (pushSample smp u) = filterQuotient (pushSample smp s) := by
  rw [filterQuotient_pushSample hn, filterQuotient_pushSample (h.order_eq.trans_le hn), h.order_eq]
  congr 2
  · refine Finset.sum_congr rfl fun i hi => ?_
    have hlt : i < order s := Finset.mem_range.1 hi
    rw [h.read_b i hlt]
    split
    · rfl
    · rw [h.read_x (i - 1) (by omega)]
  · refine Finset.sum_congr rfl fun i hi => ?_
    obtain ⟨hpos, hlt⟩ := Finset.mem_Ico.1 hi
    rw [h.read_a i hpos hlt, h.read_y (i - 1) (by omega)]

/-- FLT leaves such states with the same entries below `N`. -/
theorem SameFilterInput.read_fltState {u : State} (h : SameFilterInput s u) (hn : order s ≤ 64) (smp : SampleWord)
    {i : Nat} (hi : i < order s) :
    Bank.read (fltState smp u).x i = Bank.read (fltState smp s).x i ∧
      Bank.read (fltState smp u).y i = Bank.read (fltState smp s).y i := by
  have hnu : order u ≤ 64 := h.order_eq.trans_le hn
  rw [read_fltState_x hnu, read_fltState_x hn, h.order_eq]
  by_cases hzero : i = 0
  · subst hzero
    rw [read_fltState_y_zero, read_fltState_y_zero, fltRaw, fltRaw, h.filterQuotient_eq hn]
    exact ⟨rfl, rfl⟩
  · rw [read_fltState_y hnu smp hzero, read_fltState_y hn smp hzero, h.order_eq]
    simp only [if_neg hzero, if_pos hi]
    exact ⟨h.read_x (i - 1) (by omega), h.read_y (i - 1) (by omega)⟩

/-- Zero coefficients give the quotient 0, whatever the histories hold. -/
theorem filterQuotient_pushSample_of_zero (hn : order s ≤ 64) (smp : SampleWord)
    (hb : ∀ i < order s, Bank.read s.b i = 0) (ha : ∀ i, 1 ≤ i → i < order s → Bank.read s.a i = 0) :
    filterQuotient (pushSample smp s) = 0 := by
  rw [filterQuotient_pushSample hn, Finset.sum_eq_zero, Finset.sum_eq_zero]
  · rfl
  · intro i hi
    obtain ⟨hpos, hlt⟩ := Finset.mem_Ico.1 hi
    have hcoefficient : (Bank.read s.a i).toInt = 0 := congrArg BitVec.toInt (ha i hpos hlt)
    rw [hcoefficient, zero_mul]
  · intro i hi
    have hcoefficient : (Bank.read s.b i).toInt = 0 := congrArg BitVec.toInt (hb i (Finset.mem_range.1 hi))
    rw [hcoefficient, zero_mul, zero_mul]

/-- A FLT whose store and conversion are in range leaves CLIP and YSAT. -/
theorem flags_fltState {smp : SampleWord} (hclip : convertClips (fltRaw smp s) = false)
    (hysat : yStoreSaturates (filterQuotient (pushSample smp s)) = false) :
    (fltState smp s).clip = s.clip ∧ (fltState smp s).ysat = s.ysat := by
  rw [noteClip_clip, noteClip_ysat, storeOutput_clip, storeOutput_ysat, hclip, hysat, Bool.or_false, Bool.or_false]
  exact ⟨rfl, rfl⟩

/-- Every value of `w` bits is at most `2^(w-1)` in magnitude. -/
theorem abs_toInt_le {w : Nat} (v : BitVec w) : |v.toInt| ≤ 2 ^ (w - 1) :=
  abs_le.2 ⟨v.le_toInt, v.toInt_lt.le⟩

/-- A sum of `k` terms of magnitude at most `c`. -/
theorem abs_sumBelow_le {k : Nat} {f : Nat → Int} {c : Int} (h : ∀ i < k, |f i| ≤ c) : |sumBelow k f| ≤ k * c := by
  rw [sumBelow_eq_sum]
  calc |∑ i ∈ Finset.range k, f i| ≤ ∑ i ∈ Finset.range k, |f i| := Finset.abs_sum_le_sum_abs _ _
    _ ≤ (Finset.range k).card • c := Finset.sum_le_card_nsmul _ _ _ fun i hi => h i (Finset.mem_range.1 hi)
    _ = k * c := by rw [Finset.card_range, nsmul_eq_mul]

/-- The input terms are 31 + 15 + 24 bits wide, the feedback terms 31 + 47 (R222). -/
theorem abs_filterSum_le (len : Nat) (b a : Bank 32) (x : Bank 16) (y : Bank 48) :
    |filterSum len b a x y| ≤ len * 2 ^ 70 + (len - 1 : Nat) * 2 ^ 78 := by
  refine (abs_sub _ _).trans (add_le_add (abs_sumBelow_le fun i _ => ?_) (abs_sumBelow_le fun i _ => ?_))
  · calc |(Bank.read b i).toInt * (Bank.read x i).toInt * Config.one|
        = |(Bank.read b i).toInt| * |(Bank.read x i).toInt| * 2 ^ 24 := by rw [abs_mul, abs_mul]; rfl
      _ ≤ 2 ^ 31 * 2 ^ 15 * 2 ^ 24 := by
        gcongr
        · exact abs_toInt_le _
        · exact abs_toInt_le _
      _ = 2 ^ 70 := by norm_num
  · calc |(Bank.read a (i + 1)).toInt * (Bank.read y (i + 1)).toInt|
        = |(Bank.read a (i + 1)).toInt| * |(Bank.read y (i + 1)).toInt| := abs_mul _ _
      _ ≤ 2 ^ 31 * 2 ^ 47 := by
        gcongr
        · exact abs_toInt_le _
        · exact abs_toInt_le _
      _ = 2 ^ 78 := by norm_num

end Sys2Proof.Machine
end

section
/-! The frame of every command (R30, R33, R37 to R48): a changed element names the command that changed it. -/

namespace Sys2Proof.Machine.Effect

variable {i : Instr} {s t : State}

theorem eq_start_of_st_or_fcode (he : Effect i s t) (h : t.st ≠ s.st ∨ t.fcode ≠ s.fcode) : i = .start := by
  cases he with
  | startOk | startFails => rfl
  | _ => simp at h

theorem eq_wrreg_of_ctrl (he : Effect i s t) (h : t.ctrl ≠ s.ctrl) : ∃ v, i = .wrreg 0x002 v := by
  cases he with
  | wrregCtrl _ _ v _ ha => rw [eq_of_registerAt ha]; exact ⟨v, rfl⟩
  | _ => simp at h

theorem eq_wrreg_of_cfgFs (he : Effect i s t) (h : t.cfgFs ≠ s.cfgFs) : ∃ v, i = .wrreg 0x004 v := by
  cases he with
  | wrregFs _ _ v ha => rw [eq_of_registerAt ha]; exact ⟨v, rfl⟩
  | _ => simp at h

theorem eq_wrreg_of_cfgF (he : Effect i s t) (h : t.cfgF ≠ s.cfgF) : ∃ v, i = .wrreg 0x005 v := by
  cases he with
  | wrregF _ _ v ha => rw [eq_of_registerAt ha]; exact ⟨v, rfl⟩
  | _ => simp at h

theorem eq_wrreg_of_cfgT (he : Effect i s t) (h : t.cfgT ≠ s.cfgT) : ∃ v, i = .wrreg 0x006 v := by
  cases he with
  | wrregT _ _ v ha => rw [eq_of_registerAt ha]; exact ⟨v, rfl⟩
  | _ => simp at h

theorem eq_wrreg_of_cfgN (he : Effect i s t) (h : t.cfgN ≠ s.cfgN) : ∃ v, i = .wrreg 0x007 v := by
  cases he with
  | wrregN _ _ v ha => rw [eq_of_registerAt ha]; exact ⟨v, rfl⟩
  | _ => simp at h

theorem eq_syn_of_phase (he : Effect i s t) (h : t.n ≠ s.n ∨ t.paIdx ≠ s.paIdx) : i = .syn := by
  by_contra hi
  obtain ⟨hn, hidx⟩ := he.keeps_phase hi
  exact h.elim (· hn) (· hidx)

theorem eq_wrtbl_of_tbl (he : Effect i s t) {j : Nat} (h : Memory.read t.tbl j ≠ Memory.read s.tbl j) :
    ∃ idx v, i = .wrtbl idx v ∧ j = idx.toNat := by
  cases he with
  | wrtbl _ idx v => exact ⟨idx, v, rfl, not_imp_comm.1 (Memory.read_write_other s.tbl _ j v) h⟩
  | _ => simp at h

theorem eq_wrcb_of_b (he : Effect i s t) {j : Nat} (h : Bank.read t.b j ≠ Bank.read s.b j) :
    ∃ idx v, i = .wrcb idx v ∧ j = idx.toNat := by
  cases he with
  | wrcb _ idx v => exact ⟨idx, v, rfl, not_imp_comm.1 (Bank.read_write_other s.b _ j v) h⟩
  | _ => simp at h

theorem eq_wrca_of_a (he : Effect i s t) {j : Nat} (h : Bank.read t.a j ≠ Bank.read s.a j) :
    ∃ idx v, i = .wrca idx v ∧ j = idx.toNat := by
  cases he with
  | wrca _ idx v => exact ⟨idx, v, rfl, not_imp_comm.1 (Bank.read_write_other s.a _ j v) h⟩
  | _ => simp at h

theorem eq_flt_of_history (he : Effect i s t) (h : t.x ≠ s.x ∨ t.y ≠ s.y) : ∃ v, i = .flt v := by
  cases he with
  | flt _ smp => exact ⟨smp, rfl⟩
  | _ => simp at h

theorem eq_tick_or_wrreg_of_clip (he : Effect i s t) (h : t.clip ≠ s.clip) :
    i = .syn ∨ (∃ v, i = .flt v) ∨ ∃ v, i = .wrreg 0x003 v := by
  cases he with
  | syn => exact .inl rfl
  | flt _ smp => exact .inr (.inl ⟨smp, rfl⟩)
  | wrregStatus _ _ v ha => rw [eq_of_registerAt ha]; exact .inr (.inr ⟨v, rfl⟩)
  | _ => simp at h

theorem eq_flt_or_wrreg_of_ysat (he : Effect i s t) (h : t.ysat ≠ s.ysat) :
    (∃ v, i = .flt v) ∨ ∃ v, i = .wrreg 0x003 v := by
  cases he with
  | flt _ smp => exact .inl ⟨smp, rfl⟩
  | wrregStatus _ _ v ha => rw [eq_of_registerAt ha]; exact .inr ⟨v, rfl⟩
  | _ => simp at h

/-- CERR and CCODE change by a write of STATUS, or on the error path with CCODE's code in the response (R124, R262). -/
theorem eq_wrreg_or_error_of_cerr_or_ccode (he : Effect i s t) (h : t.cerr ≠ s.cerr ∨ t.ccode ≠ s.ccode) :
    (∃ v, i = .wrreg 0x003 v) ∨ (t.cerr = true ∧ t.responses = s.responses ++ [⟨t.ccode, 0⟩]) := by
  cases he with
  | wrregStatus _ _ v ha => rw [eq_of_registerAt ha]; exact .inl ⟨v, rfl⟩
  | rdregBad | wrregBad | wrregReadOnly | wrregState | wrregValue | wrtblState | rdcbBad | rdcaBad | rdhxBad | rdhyBad
  | wrcbBad | wrcbState | wrcaBad | wrcaState | startState | synMode | synState | fltMode | fltState =>
    exact .inr ⟨rfl, rfl⟩
  | _ => simp at h

end Sys2Proof.Machine.Effect
end

section
/-! Noninterference of the flags (R49): each shared operation, on two states that differ in CLIP, YSAT, CERR and CCODE
only, ends in two such states. -/

namespace Sys2Proof.Machine

/-- The states differ in the flags CLIP, YSAT, CERR and CCODE only. -/
def SameButFlags (s s' : State) : Prop :=
  ∃ clip ysat cerr ccode, s' = { s with clip, ysat, cerr, ccode }

/-- Where the first operation answers a next state, the second answers one that differs in the flags only. -/
def AgreeButFlags (o o' : Host.Outcome State Fault Refusal) : Prop :=
  ∀ t, o = .next t → ∃ t', o' = .next t' ∧ SameButFlags t t'

variable {s s' : State} {body body' : Host.Outcome State Fault Refusal}

theorem agreeButFlags_respond (c : RCode) (d : RespData) (h : SameButFlags s s') :
    AgreeButFlags (respond c d s) (respond c d s') := by
  obtain ⟨clip, ysat, cerr, ccode, rfl⟩ := h
  rintro t ht
  cases ht
  exact ⟨_, rfl, clip, ysat, cerr, ccode, rfl⟩

theorem agreeButFlags_raiseErr (c : RCode) (h : SameButFlags s s') :
    AgreeButFlags (raiseErr c s) (raiseErr c s') := by
  obtain ⟨clip, ysat, cerr, ccode, rfl⟩ := h
  exact agreeButFlags_respond c 0 ⟨clip, ysat, true, c.bits, rfl⟩

theorem agreeButFlags_inConfig (h : SameButFlags s s') (hbody : AgreeButFlags body body') :
    AgreeButFlags (inConfig s body) (inConfig s' body') := by
  have herr := agreeButFlags_raiseErr .badState h
  obtain ⟨clip, ysat, cerr, ccode, rfl⟩ := h
  by_cases hs : s.st = .config
  · rwa [inConfig_of_config hs, inConfig_of_config (by exact hs)]
  · rwa [inConfig_of_not_config hs, inConfig_of_not_config (by exact hs)]

theorem agreeButFlags_withEntry (k : Nat) (h : SameButFlags s s') (hbody : AgreeButFlags body body') :
    AgreeButFlags (withEntry k s body) (withEntry k s' body') := by
  unfold withEntry
  split
  · exact hbody
  · exact agreeButFlags_raiseErr _ h

theorem agreeButFlags_inRun (m : Mode) (h : SameButFlags s s') (hbody : AgreeButFlags body body') :
    AgreeButFlags (inRun m s body) (inRun m s' body') := by
  have hstate := agreeButFlags_raiseErr .badState h
  have hmode := agreeButFlags_raiseErr .mode h
  obtain ⟨clip, ysat, cerr, ccode, rfl⟩ := h
  by_cases hs : s.st = .run
  · by_cases hm : s.ctrl.mode = m
    · rwa [inRun_of_run hs hm, inRun_of_run (by exact hs) (by exact hm)]
    · rwa [inRun_of_mode_ne hs hm, inRun_of_mode_ne (by exact hs) (by exact hm)]
  · rwa [inRun_of_not_run hs, inRun_of_not_run (by exact hs)]

theorem agreeButFlags_fault (r : Fault) : AgreeButFlags (.fault r) body' := by
  rintro t ht
  cases ht

theorem agreeButFlags_ite (p : Prop) [Decidable p] {o₁ o₂ o₁' o₂' : Host.Outcome State Fault Refusal}
    (h₁ : AgreeButFlags o₁ o₁') (h₂ : AgreeButFlags o₂ o₂') :
    AgreeButFlags (if p then o₁ else o₂) (if p then o₁' else o₂') := by
  split
  · exact h₁
  · exact h₂

/-- STATUS is the only register that shows a flag (R38). -/
theorem readRegister_of_sameButFlags (h : SameButFlags s s') {r : RegName} (hr : r ≠ .status) :
    readRegister r s' = readRegister r s := by
  obtain ⟨clip, ysat, cerr, ccode, rfl⟩ := h
  cases r with
  | status => exact absurd rfl hr
  | _ => rfl

theorem agreeButFlags_rdreg (h : SameButFlags s s') {a : Index} (ha : a ≠ 0x003) :
    AgreeButFlags (execRdreg a s) (execRdreg a s') := by
  unfold execRdreg
  split
  · exact agreeButFlags_raiseErr _ h
  · next r hr =>
    have hne : r ≠ .status := by rintro rfl; exact ha (eq_of_registerAt hr)
    rw [readRegister_of_sameButFlags h hne]
    exact agreeButFlags_respond _ _ h

theorem agreeButFlags_writeCtrl (h : SameButFlags s s') (v : RegWord) :
    AgreeButFlags (writeCtrl v s) (writeCtrl v s') := by
  unfold writeCtrl
  split
  · exact agreeButFlags_raiseErr _ h
  · obtain ⟨clip, ysat, cerr, ccode, rfl⟩ := h
    exact agreeButFlags_respond _ _ ⟨clip, ysat, cerr, ccode, rfl⟩

theorem agreeButFlags_wrreg (h : SameButFlags s s') (a : Index) (v : RegWord) :
    AgreeButFlags (execWrreg a v s) (execWrreg a v s') := by
  have hctrl := agreeButFlags_inConfig h (agreeButFlags_writeCtrl h v)
  have herr (c : RCode) := agreeButFlags_raiseErr c h
  obtain ⟨clip, ysat, cerr, ccode, rfl⟩ := h
  unfold execWrreg
  cases registerAt a with
  | none => exact herr .badIndex
  | some r =>
    cases r with
    | id | params | paNLo | paNHi | paIdx => exact herr .readOnly
    | status => exact agreeButFlags_respond _ _ ⟨_, _, _, _, rfl⟩
    | ctrl => exact hctrl
    | cfgFs | cfgF | cfgT | cfgN =>
      exact agreeButFlags_inConfig ⟨_, _, _, _, rfl⟩ (agreeButFlags_respond _ _ ⟨_, _, _, _, rfl⟩)

/-- Every command but RDREG of STATUS: each guard and each computed value reads the same in both states, and each
update carries the difference in the flags on. -/
theorem agreeButFlags_exec (h : SameButFlags s s') {i : Instr} (hi : i ≠ .rdreg 0x003) :
    AgreeButFlags (exec i s) (exec i s') := by
  -- `id h`: the guards' lemmas take `h` itself, beside its parts.
  obtain ⟨clip, ysat, cerr, ccode, rfl⟩ := id h
  cases i with
  | rdreg a => exact agreeButFlags_rdreg h fun ha => hi (congrArg Instr.rdreg ha)
  | wrreg a v => exact agreeButFlags_wrreg h a v
  | nop | rdtbl => exact agreeButFlags_respond _ _ h
  | rdcb | rdca | rdhx | rdhy => exact agreeButFlags_withEntry _ h (agreeButFlags_respond _ _ h)
  | wrtbl => exact agreeButFlags_inConfig h (agreeButFlags_respond _ _ ⟨_, _, _, _, rfl⟩)
  | wrcb | wrca =>
    exact agreeButFlags_withEntry _ h (agreeButFlags_inConfig h (agreeButFlags_respond _ _ ⟨_, _, _, _, rfl⟩))
  | start =>
    exact agreeButFlags_inConfig h (agreeButFlags_ite _ (agreeButFlags_respond _ _ ⟨_, _, _, _, rfl⟩)
      (agreeButFlags_respond _ _ ⟨_, _, _, _, rfl⟩))
  | syn =>
    exact agreeButFlags_inRun _ h (agreeButFlags_ite _ (agreeButFlags_fault _) (agreeButFlags_ite _
      (agreeButFlags_fault _) (agreeButFlags_respond _ _ ⟨_, _, _, _, rfl⟩)))
  | flt smp =>
    exact agreeButFlags_inRun _ h (agreeButFlags_ite _ (agreeButFlags_fault _)
      (agreeButFlags_respond _ _ ⟨_, _, _, _, rfl⟩))

end Sys2Proof.Machine
end

section
/-! The statements that belong to more than one document, the invariants and the claims of noninterference. -/

namespace Sys2Proof.Proofs

open Sys2Proof.Machine Sys2Proof.Safety

/-- Settles O1: `decode_encode`, from the fields of each command. -/
theorem encodedCommandDecodesToItself : Obligations.EncodedCommandDecodesToItself := decode_encode

/-- Settles O47: `StateInv.after_step`, from each of the ways a command can end (`StateInv.after_effect`). -/
theorem everyStepKeepsTheInvariant : Obligations.EveryStepKeepsTheInvariant := fun _ _ hinv => hinv.after_step

/-- Settles O2: a word that decodes has no bits beside its command's fields (`encode_of_decode`). -/
theorem decodedWordIsTheCommandsWord : Obligations.DecodedWordIsTheCommandsWord := fun _ _ => encode_of_decode

/-- Settles O22: reads give the cells (`Memory.mem_iff_read`), and the cells give the list. -/
theorem tablesThatReadAlikeAreEqual : Obligations.TablesThatReadAlikeAreEqual := by
  intro m m' hm hm' hread
  refine Memory.eq_of_mem_iff hm hm' fun c => ?_
  rw [Memory.mem_iff_read hm, Memory.mem_iff_read hm']
  exact and_congr_right fun hlt => by rw [hread c.1 hlt]

/-- Settles O26: without the wrap the product grows by `f*T`, which the remainder carries (`div_add_mod_add_div`); at
the wrap `n` is 0. -/
theorem incrementalPhaseYieldsTheSameIndex : Obligations.IncrementalPhaseYieldsTheSameIndex := by
  rintro s u q r hs hm h rfl rfl
  obtain ⟨hfs, hidx, hn, hF, hT, hFs⟩ := phase_of_syn hs hm h
  have hpos := BitVec.toNat_pos_of_ne_zero hfs
  have hwrapped : (s.n + 1).toNat = (s.n.toNat + 1) % 2 ^ 64 := BitVec.toNat_add s.n 1
  rw [synIndex, nextIndex, hn, hF, hT, hFs, hwrapped]
  refine ⟨hidx, fun hlt => ?next, fun hwrap => ?wrap⟩
  case next =>
    rw [Nat.mod_eq_of_lt hlt, Nat.add_mul, Nat.add_mul, one_mul, div_add_mod_add_div hpos, Nat.mod_add_mod]
    exact ⟨rfl, rfl, rfl⟩
  case wrap =>
    rw [hwrap, Nat.mod_self, Nat.zero_mul, Nat.zero_mul]
    exact ⟨Nat.zero_div _, Nat.zero_mod _, by rw [Nat.zero_div, Nat.zero_mod]⟩

/-- Settles O27: NEGABS truncates to a negated magnitude (`truncRaw_synRaw_negabs`), which SAT clamps from below only
and a unit-amplitude table keeps in range. -/
theorem negabsOutputsAreNeverPositive : Obligations.NegabsOutputsAreNeverPositive := by
  intro s t hs hm hshape hfs hpos hle h
  rw [okWith_syn hs hm hfs hpos hle] at h
  cases h
  have htrunc := truncRaw_synRaw_negabs hshape
  have hmagnitude : 0 ≤ |(Memory.read s.tbl (synIndex s)).toInt| * 32767 / 2 ^ 24 := by positivity
  refine ⟨_, rfl, fun hsat => ?sat, fun hunit => ?unit⟩
  case sat =>
    rw [sample_convertSample, hsat, convertSample_sat]
    omega
  case unit =>
    have hamplitude : |(Memory.read s.tbl (synIndex s)).toInt| ≤ 16777216 :=
      abs_le.2 (hunit _ (synIndex_lt hpos))
    rw [sample_convertSample, convertSample_of_in_range _ (by omega) (by omega), htrunc, noteClip_clip,
      convertClips_of_in_range (by omega) (by omega), advancePhase_clip, Bool.or_false]
    exact ⟨rfl, by omega, by omega, rfl⟩

/-- Settles O32: the bound of `abs_filterSum_le` at 64 terms. -/
theorem filterSumFitsTheAccumulator : Obligations.FilterSumFitsTheAccumulator := by
  intro len b a x y hlen
  have hbound := abs_filterSum_le len b a x y
  have hlt : |filterSum len b a x y| < 2 ^ 85 := by
    refine hbound.trans_lt ?_
    have : ((len - 1 : Nat) : Int) ≤ 63 := by omega
    omega
  exact ⟨(abs_lt.1 hlt).1, (abs_lt.1 hlt).2, by decide⟩

/-- Settles O33: `A[0]` is no input of FLT's sum (`SameFilterInput`), and no guard reads it. -/
theorem feedbackIgnoresTheFirstCoefficient : Obligations.FeedbackIgnoresTheFirstCoefficient := by
  intro s t smp v h
  cases exec_effect h with
  | flt _ _ hs hm hn =>
    have hsame : SameFilterInput s { s with a := Bank.write s.a 0 v } :=
      ⟨rfl, fun _ _ => rfl, fun i hpos _ => Bank.read_write_other _ _ _ _ (by omega), fun _ _ => rfl, fun _ _ => rfl⟩
    have hexec := (Effect.flt { s with a := Bank.write s.a 0 v } smp hs hm hn).exec_flt
    rw [hexec, fltRaw, storeOutput, hsame.filterQuotient_eq hn]
    rfl
  | fltMode _ _ hs hm => exact (Effect.fltMode { s with a := Bank.write s.a 0 v } smp hs hm).exec_flt
  | fltState _ _ hs => exact (Effect.fltState { s with a := Bank.write s.a 0 v } smp hs).exec_flt

/-- Settles O35: the one term of the sum is the sample at 2^48, whose quotient no clamp changes and whose truncation
is the sample. -/
theorem identityFilterReturnsItsInput : Obligations.IdentityFilterReturnsItsInput := by
  intro s t smp hs hm hN hb h
  have horder : order s = 1 := congrArg BitVec.toNat hN
  have hone : (Bank.read s.b 0).toInt = 2 ^ 24 := by rw [hb]; rfl
  obtain ⟨hlo, hhi⟩ : -2 ^ 15 ≤ smp.toInt ∧ smp.toInt < 2 ^ 15 := ⟨smp.le_toInt, smp.toInt_lt⟩
  have hquotient : filterQuotient (pushSample smp s) = smp.toInt * 2 ^ 24 := by
    rw [filterQuotient_pushSample (by omega), horder, floorDiv_pos _ (by decide), Finset.sum_range_one,
      Finset.Ico_self, Finset.sum_empty, if_pos rfl, hone, sub_zero, mul_comm (2 ^ 24)]
    exact Int.mul_ediv_cancel _ (by decide)
  have hraw : fltRaw smp s = smp.toInt * 2 ^ 24 := by
    rw [fltRaw, hquotient, yStore_eq]
    omega
  have htrunc : truncRaw (fltRaw smp s) = smp.toInt := by rw [hraw, truncRaw_mul_one]
  have hflags := flags_fltState (s := s) (smp := smp) (convertClips_of_in_range (by omega) (by omega))
    (by rw [← Bool.not_eq_true, yStoreSaturates_iff, hquotient]; omega)
  have hstored := (congrArg BitVec.toInt (read_fltState_y_zero smp s)).trans (toInt_bitsOf_yStore _)
  rw [okWith_flt hs hm (by omega)] at h
  cases h
  refine ⟨?response, hflags.1, hflags.2, hstored.trans hraw⟩
  rw [fltData, convertSample_of_in_range _ (by omega) (by omega), htrunc]
  rfl

/-- Settles O42: every clause is the frame of its element. -/
theorem everyElementChangesByItsOwnCommandsOnly : Obligations.EveryElementChangesByItsOwnCommandsOnly := by
  intro i s t h
  have he := exec_effect h
  exact ⟨he.eq_start_of_st_or_fcode, he.eq_wrreg_of_ctrl, he.eq_wrreg_of_cfgFs, he.eq_wrreg_of_cfgF,
    he.eq_wrreg_of_cfgT, he.eq_wrreg_of_cfgN, he.eq_syn_of_phase, fun _ => he.eq_wrtbl_of_tbl,
    fun _ => he.eq_wrcb_of_b, fun _ => he.eq_wrca_of_a, he.eq_flt_of_history, he.eq_tick_or_wrreg_of_clip,
    he.eq_flt_or_wrreg_of_ysat, he.eq_wrreg_or_error_of_cerr_or_ccode, he.answer.2⟩

/-- Settles O44: `agreeButFlags_exec`, and states that differ in the flags only are equal once the flags are. -/
theorem flagsDoNotAffectComputation : Obligations.FlagsDoNotAffectComputation := by
  intro i s t clip ysat cerr ccode hi h
  obtain ⟨_, hexec, _, _, _, _, rfl⟩ := agreeButFlags_exec ⟨clip, ysat, cerr, ccode, rfl⟩ hi t h
  exact ⟨_, hexec, rfl⟩

/-- Settles O45: SYN's one read is below `T`; FLT's sum reads below `N` (`SameFilterInput`), and so does every entry it
leaves there. -/
theorem entriesBeyondTheLengthsAffectNoOutput : Obligations.EntriesBeyondTheLengthsAffectNoOutput := by
  refine ⟨fun s t tbl htbl h => ?syn, fun s t smp b a x y hpos hsame h => ?flt⟩
  case syn =>
    cases exec_effect h with
    | syn _ hs hm hfs ht hi =>
      have hread : Memory.read tbl (synIndex s) = Memory.read s.tbl (synIndex s) :=
        htbl _ (synIndex_lt (BitVec.toNat_pos_of_ne_zero ht))
      have hraw : synRaw { s with tbl } = synRaw s := congrArg (synProduct s.ctrl.shape) hread
      rw [(Effect.syn { s with tbl } hs hm hfs ht hi).exec_syn, hraw]
      rfl
    | synMode _ hs hm => exact (Effect.synMode { s with tbl } hs hm).exec_syn
    | synState _ hs => exact (Effect.synState { s with tbl } hs).exec_syn
  case flt =>
    simp only [imp_and, forall_and] at hsame
    obtain ⟨hb, ha, hx, hy⟩ := hsame
    cases exec_effect h with
    | flt _ _ hs hm hn =>
      have hinput : SameFilterInput s { s with b, a, x, y } :=
        ⟨rfl, hb, fun i _ => ha i, fun i hi => hx i (Nat.lt_of_succ_lt hi), fun i hi => hy i (Nat.lt_of_succ_lt hi)⟩
      have hquotient := hinput.filterQuotient_eq hn smp
      exact ⟨_, (Effect.flt { s with b, a, x, y } smp hs hm hn).exec_flt,
        congrArg (fun q => s.responses ++ [⟨0, widenSample (convertSample s.ctrl.ovf (yStore q))⟩]) hquotient,
        congrArg (fun q => s.clip || convertClips (yStore q)) hquotient,
        congrArg (fun q => s.ysat || yStoreSaturates q) hquotient, fun i hi => hinput.read_fltState hn smp hi⟩
    | fltMode _ _ hs hm =>
      exact ⟨_, (Effect.fltMode { s with b, a, x, y } smp hs hm).exec_flt, rfl, rfl, rfl,
        fun i hi => ⟨hx i hi, hy i hi⟩⟩
    | fltState _ _ hs =>
      exact ⟨_, (Effect.fltState { s with b, a, x, y } smp hs).exec_flt, rfl, rfl, rfl,
        fun i hi => ⟨hx i hi, hy i hi⟩⟩

/-- Settles O48: `answers_step`. -/
theorem machineNeverStops : Obligations.MachineNeverStops := fun _ => answers_step

/-- Settles O49: the active tick answers OK (`okWith_syn_of_inv`, `okWith_flt_of_inv`) with a converted sample. -/
theorem activeTickAlwaysReturnsASample : Obligations.ActiveTickAlwaysReturnsASample := by
  intro s i hinv hs htick
  obtain ⟨hm, rfl⟩ | ⟨hm, smp, rfl⟩ := htick
  · exact ⟨_, _, okWith_syn_of_inv hinv hs hm, rfl, rfl, widenSample_eq_ofInt_sample 0 _ _⟩
  · exact ⟨_, _, okWith_flt_of_inv hinv hs hm smp, rfl, rfl, widenSample_eq_ofInt_sample 0 _ _⟩

/-- Settles O50: every state of a run meets the invariant, which makes it step and holds both ranges. -/
theorem everyRunStaysSafe : Obligations.EveryRunStaysSafe := by
  intro s hreach
  have hinv := stateInv_of_reachable hreach
  refine ⟨answers_step hinv, fun hs hm => ?index, hinv.tail_zero⟩
  case index =>
    obtain ⟨-, -, -, hidx⟩ := hinv.run_synth hs hm
    exact hidx

/-- Settles O52: zero entries make SYN's product 0, and zero coefficients FLT's sum, and 0 converts and is stored as
0. -/
theorem unloadedFilesProduceZero : Obligations.UnloadedFilesProduceZero := by
  refine ⟨fun s hinv hs hm hzero => ?syn, fun s smp hinv hs hm hzero => ?flt⟩
  case syn =>
    obtain ⟨hpos, -⟩ := hinv.run_synth hs hm
    have hread : Memory.read s.tbl (synIndex s) = 0 := hzero _ (synIndex_lt hpos)
    have hraw : synRaw s = 0 := by rw [synRaw, hread]; cases s.ctrl.shape <;> rfl
    have hok := okWith_syn_of_inv hinv hs hm
    rw [hraw, convertSample_zero] at hok
    exact ⟨_, hok, Bool.or_false _, rfl⟩
  case flt =>
    obtain ⟨-, hle⟩ := hinv.run_filter hs hm
    obtain ⟨hb, ha⟩ := hzero
    have hquotient := filterQuotient_pushSample_of_zero hle smp hb ha
    have hraw : fltRaw smp s = 0 := by rw [fltRaw, hquotient]; rfl
    have hdata : fltData smp s = 0 := by rw [fltData, hraw, convertSample_zero]; rfl
    have hok := okWith_flt_of_inv hinv hs hm smp
    rw [hdata] at hok
    exact ⟨_, hok, (read_fltState_y_zero smp s).trans (congrArg (bitsOf 48) hraw),
      flags_fltState (by rw [hraw]; rfl) (by rw [hquotient]; rfl)⟩

/-- Settles O6: the step performs the word, and the word its command. -/
theorem stepPerformsTheDecodedCommand : Obligations.StepPerformsTheDecodedCommand := fun _ _ _ _ hin hdecode =>
  (step_of_command hin).trans (performWord_of_decode hdecode _)

/-- Settles O7: the step without an event is `performIdle`. -/
theorem idleBlockHoldsItsState : Obligations.IdleBlockHoldsItsState := by
  intro s hin
  rw [step, hin, performIdle]

/-- Settles O46: `stateInv_reset`, whose fields do not speak of the events. -/
theorem resetMeetsTheInvariant : Obligations.ResetMeetsTheInvariant := stateInv_reset.with_inputs

/-- Settles O51: the placed word is the host's oldest event, so O6 performs it and leaves the events behind it. -/
theorem placedWordIsPerformedNext : Obligations.PlacedWordIsPerformedNext := fun s w i h =>
  stepPerformsTheDecodedCommand (s.withFetchWord 64 w) _ i s.inputs rfl (decode_of_decodeTableWord h)

end Sys2Proof.Proofs
end
